-- ==== Sys2Proof/Word.lean ====
section
/-! DEFINITION. The units the block moves: bytes, frames and the request words of the ports. A listener identifier `lid` is
a Nat, a name the block only stores and compares for equality (spec/10_state.md R18), its `LW` bits checked by `Instr.wf`
(spec/00_scope.md R3, spec/10_state.md R18, R19, spec/20_memory.md R35). -/

namespace Sys2Proof

/-- A byte: 8 bits, never signed (R35, R92). -/
abbrev Byte := BitVec 8

/-- A Frame, "a value of 12 bytes" in index order (R19), `FRAME_LEN = 12` being a constant of the block (R3); also the
shape of the collect buffer (R11). -/
abbrev Frame := Vector Byte 12

/-- The request word of a port that carries a whole Frame, `f[95:0]` (R60, R62). -/
abbrev FrameWord := BitVec 96

end Sys2Proof
end

