-- ==== Sys2Proof/Config.lean ====
section
/-! DEFINITION. The constant configuration record `Cfg` of a link instance (spec/00_scope.md R4 to R6,
spec/10_state.md R24) and the free values, which the spec leaves open. -/

namespace Sys2Proof

/-- Rule R5's condition on the four reserved values: pairwise different. -/
abbrev ReservedDistinct (delim esc subD subE : Byte) : Prop :=
  delim ≠ esc ∧ delim ≠ subD ∧ delim ≠ subE ∧ esc ≠ subD ∧ esc ≠ subE ∧ subD ≠ subE

/-- `Cfg` (R24), taken with the proofs R5 asks for: "A model takes `Cfg` with a proof of this condition and refuses
any other configuration". It is constant for the life of an instance (log entry 1). -/
structure Cfg where
  /-- `DELIM`, START and END of an encoded frame. -/
  delim : Byte
  /-- `ESC`, the escape introducer. -/
  esc : Byte
  /-- `SUB_D`, the substitute for `DELIM` after `ESC`. -/
  subD : Byte
  /-- `SUB_E`, the substitute for `ESC` after `ESC`. -/
  subE : Byte
  /-- `PERSIST`: false drains the registry on dispatch, true keeps it. -/
  persist : Bool
  /-- `LMAX`: the registry's capacity, `none` being `unbounded`. -/
  lmax : Option Nat
  /-- `LW`: the width of a `lid` in bits. -/
  lw : Nat
  /-- `PAUSE`: the quiescent interval, timing only; no rule's result depends on it (R119, log entry 11). -/
  pause : Nat
  /-- `LONG_FRAME_EMITS`: true emits the first 12 bytes of a longer frame. -/
  longFrameEmits : Bool
  /-- R5. -/
  distinct : ReservedDistinct delim esc subD subE
  /-- R6: `LW` is positive. -/
  lw_pos : 0 < lw
deriving DecidableEq, Repr

/-- Build a configuration from raw values, refusing one that R5 or R6 does not admit. -/
def Cfg.ofValues (delim esc subD subE : Byte) (persist : Bool) (lmax : Option Nat) (lw pause : Nat)
    (longFrameEmits : Bool) : Option Cfg :=
  if h : ReservedDistinct delim esc subD subE ∧ 0 < lw then
    some ⟨delim, esc, subD, subE, persist, lmax, lw, pause, longFrameEmits, h.1, h.2⟩
  else none

/-- The default configuration: R4's four bytes and R6's defaults. `SUB_E = 0xDD` is PRESUMED (log entry 2);
`LMAX` and `LW` are OPEN in R6, and `unbounded` and 8 are a DESIGN CHOICE (log entry 3). -/
def Cfg.default : Cfg where
  delim := 0xC0
  esc := 0xDB
  subD := 0xDC
  subE := 0xDD
  persist := false
  lmax := none
  lw := 8
  pause := 0
  longFrameEmits := false
  distinct := by decide
  lw_pos := by decide

/-- FREE VALUE: the arbiter's choice after the `k`-th draw in environment `env` (R40 fixes no order between the ports;
log entry 7). No rule relates the free values of two instances (R2, R150); that two instances with the same `env` draw the
same ones is a DESIGN CHOICE, and unsafe (log entry 34). -/
opaque Config.nextPick (env k : Nat) : Nat

/-- FREE VALUE: the channel's next `chan_ok` after the `k`-th draw in environment `env`, "an input of the environment that
no rule constrains" (R72; log entry 8). Two instances: as for `nextPick` (DESIGN CHOICE, log entry 34). -/
opaque Config.nextChanOk (env k : Nat) : Bool

/-- FREE VALUE: the collect buffer after the `RESET` of the `k`-th draw in environment `env`: "`buf` becomes unspecified"
(R155; log entry 5). Two instances: as for `nextPick` (DESIGN CHOICE, log entry 34). -/
opaque Config.unspecifiedBuf (env k : Nat) : Frame

end Sys2Proof
end

