-- ==== Sys2Proof/Syntax.lean ====
section
/-! DEFINITION. The operations of the block: one constructor per row of spec/opcode_table.json, and the request words
that carry them at the ports (spec/30_encoding.md R55, R58 to R66). -/

namespace Sys2Proof

/-- The decoder's state `st` (R13). -/
inductive DecoderState where
  | idle
  | inFrame
deriving DecidableEq, Repr

/-- What decides how the next received byte is read, "the triple (`st`, `esc`, `n`)" (R14): the column `context` and
the `guard` of the table's RX rows. -/
structure RxContext where
  st : DecoderState
  esc : Bool
  n : Nat
deriving DecidableEq, Repr

/-- The operations (R64), one constructor per table row. A row whose byte is fixed by the table has no operand: the
byte is the `Cfg` parameter the row names as its `symbol` (R66). -/
inductive Instr where
  /-- RXB.IDLE.DELIM, R80. -/
  | rxbIdleDelim
  /-- RXB.IDLE.ESC, R81. -/
  | rxbIdleEsc
  /-- RXB.IDLE.OTHER, R82. -/
  | rxbIdleOther (b : Byte)
  /-- RXB.INFRAME.DELIM, R83. -/
  | rxbInframeDelim
  /-- RXB.INFRAME.ESC, R84. -/
  | rxbInframeEsc
  /-- RXB.INFRAME.DATA, R85. -/
  | rxbInframeData (b : Byte)
  /-- RXB.INFRAME.OVERFLOW, R86. -/
  | rxbInframeOverflow (b : Byte)
  /-- RXB.AFTERESC.SUBD, R88. -/
  | rxbAfterescSubd
  /-- RXB.AFTERESC.SUBE, R89. -/
  | rxbAfterescSube
  /-- RXB.AFTERESC.INVALID, R90. -/
  | rxbAfterescInvalid (b : Byte)
  /-- ENC.BYTE.DELIM, R53: the encoder's output for a data byte `DELIM`. -/
  | encByteDelim
  /-- ENC.BYTE.ESC, R53: the encoder's output for a data byte `ESC`. -/
  | encByteEsc
  /-- ENC.BYTE.PLAIN, R53: the encoder's output for any other data byte. -/
  | encBytePlain (d : Byte)
  /-- ENC.FRAME, R50: the delimited stream encoding of a Frame. -/
  | encFrame (f : Frame)
  /-- ENCODE, R70: the pure function Frame to byte sequence. -/
  | encode (f : Frame)
  /-- SEND, R72. -/
  | send (f : Frame)
  /-- REGISTER, R100. -/
  | register (lid : Nat)
  /-- REMOVE, R101. -/
  | remove (lid : Nat)
  /-- DISPATCH.DRAIN, R102: `PERSIST = false`. -/
  | dispatchDrain (f : Frame)
  /-- DISPATCH.PERSIST, R103: `PERSIST = true`. -/
  | dispatchPersist (f : Frame)
  /-- DELIVER, R62: one output transaction to a listener. -/
  | deliver (lid : Nat) (f : Frame)
  /-- START, R117. -/
  | start
  /-- STOP, R118. -/
  | stop
  /-- RESET, R155. -/
  | reset
deriving DecidableEq, Repr

/-- The table's `format` column (R66): where an operation's word stands. TXENC is two constructors, since its byte rows
carry a data byte and its frame row a Frame. -/
inductive Port where
  /-- RX: `b[7:0]` (R58). -/
  | rx
  /-- SEND: `f[95:0]` (R60). -/
  | send
  /-- FUNC: a call of the pure function `ENCODE`, `f[95:0]`. -/
  | func
  /-- BUS: `rm` in bit 0, `lid` in bits `[LW:1]` (R61). -/
  | bus
  /-- CTL: the bit `run` (R63). -/
  | ctl
  /-- RESET: the reset input, "not a CTL transaction" (R63, R155). -/
  | rst
  /-- TXENC, byte rows: a data byte `d[7:0]` inside the encoder (R53). -/
  | txByte
  /-- TXENC, frame row: a Frame `f[95:0]` inside the encoder (R50). -/
  | txFrame
  /-- DELIVER: the output transaction `lid[LW-1:0]`, `f[95:0]` (R62). -/
  | deliver
  /-- INTERNAL: the Frame a completing `RXB` hands to `DISPATCH` (R91). -/
  | internal
deriving DecidableEq, Repr

/-- A request: its word at its port. Bit 0 of the word is its least significant bit. -/
structure Request where
  port : Port
  word : Nat
deriving DecidableEq, Repr

end Sys2Proof
end

