-- ==== Sys2Proof/WellFormed.lean ====
section
/-! DEFINITION. Which operand values an operation's encoding admits, and in which context a row of the table applies
(spec/30_encoding.md R55, R61, R62, R66). -/

namespace Sys2Proof

/-- The reserved values, "two reserved values which must be escaped" (R44). -/
def isReserved (c : Cfg) (b : Byte) : Bool := b == c.delim || b == c.esc

/-- A byte that stands for itself as data (R53) and that no higher-priority row takes outside AfterEscape (R55). -/
def plainByte (c : Cfg) (b : Byte) : Bool := !isReserved c b

/-- A byte that, after `ESC`, is no valid substitute (R90). -/
def invalidSubstitute (c : Cfg) (b : Byte) : Bool := b != c.subD && b != c.subE

/-- `lid` has `Cfg.LW` bits (R18, R61). -/
def lidInRange (c : Cfg) (lid : Nat) : Bool := decide (lid < 2 ^ c.lw)

/-- The operands are ones the row can carry: an "otherwise" row's byte is none that a row of smaller `priority` takes
(R66), and a `lid` has `LW` bits. -/
def Instr.wf (c : Cfg) : Instr → Bool
  | .rxbIdleDelim => true
  | .rxbIdleEsc => true
  | .rxbIdleOther b => plainByte c b
  | .rxbInframeDelim => true
  | .rxbInframeEsc => true
  | .rxbInframeData b => plainByte c b
  | .rxbInframeOverflow b => plainByte c b
  | .rxbAfterescSubd => true
  | .rxbAfterescSube => true
  | .rxbAfterescInvalid b => invalidSubstitute c b
  | .encByteDelim => true
  | .encByteEsc => true
  | .encBytePlain d => plainByte c d
  | .encFrame _ => true
  | .encode _ => true
  | .send _ => true
  | .register lid => lidInRange c lid
  | .remove lid => lidInRange c lid
  | .dispatchDrain _ => true
  | .dispatchPersist _ => true
  | .deliver lid _ => lidInRange c lid
  | .start => true
  | .stop => true
  | .reset => true

/-- R55's context Idle. -/
def RxContext.isIdle (x : RxContext) : Bool := x.st == .idle

/-- R55's context InFrame: `st = InFrame`, `esc = 0`. -/
def RxContext.isInFrame (x : RxContext) : Bool := x.st == .inFrame && !x.esc

/-- R55's context AfterEscape: `st = InFrame`, `esc = 1`. -/
def RxContext.isAfterEscape (x : RxContext) : Bool := x.st == .inFrame && x.esc

/-- The table's `context` and `guard` columns: where a row applies. An RX row applies in its context, a DISPATCH row
under its value of `PERSIST`, every other row anywhere. -/
def Instr.applies (c : Cfg) (x : RxContext) : Instr → Bool
  | .rxbIdleDelim => x.isIdle
  | .rxbIdleEsc => x.isIdle
  | .rxbIdleOther _ => x.isIdle
  | .rxbInframeDelim => x.isInFrame
  | .rxbInframeEsc => x.isInFrame
  | .rxbInframeData _ => x.isInFrame && decide (x.n < 12)
  | .rxbInframeOverflow _ => x.isInFrame && !decide (x.n < 12)
  | .rxbAfterescSubd => x.isAfterEscape
  | .rxbAfterescSube => x.isAfterEscape
  | .rxbAfterescInvalid _ => x.isAfterEscape
  | .encByteDelim => true
  | .encByteEsc => true
  | .encBytePlain _ => true
  | .encFrame _ => true
  | .encode _ => true
  | .send _ => true
  | .register _ => true
  | .remove _ => true
  | .dispatchDrain _ => !c.persist
  | .dispatchPersist _ => c.persist
  | .deliver _ _ => true
  | .start => true
  | .stop => true
  | .reset => true

/-- The rows of the RX port. -/
def Instr.isRx : Instr → Bool
  | .rxbIdleDelim => true
  | .rxbIdleEsc => true
  | .rxbIdleOther _ => true
  | .rxbInframeDelim => true
  | .rxbInframeEsc => true
  | .rxbInframeData _ => true
  | .rxbInframeOverflow _ => true
  | .rxbAfterescSubd => true
  | .rxbAfterescSube => true
  | .rxbAfterescInvalid _ => true
  | .encByteDelim => false
  | .encByteEsc => false
  | .encBytePlain _ => false
  | .encFrame _ => false
  | .encode _ => false
  | .send _ => false
  | .register _ => false
  | .remove _ => false
  | .dispatchDrain _ => false
  | .dispatchPersist _ => false
  | .deliver _ _ => false
  | .start => false
  | .stop => false
  | .reset => false

end Sys2Proof
end

