-- ==== Sys2Proof/Decode.lean ====
section
/-! DEFINITION. From a request word to the operation it is, and back: the byte classes of spec/30_encoding.md R55, the
test order of spec/41_decoder.md R87, the port formats of R58 to R63, and the table conventions of R66. -/

namespace Sys2Proof

/-! ## Frames as words -/

/-- Byte `k` at bits `[8k+7 : 8k]` (R60): the word of a byte sequence. -/
def wordOfBytes : List Byte → Nat
  | [] => 0
  | b :: bs => b.toNat + 256 * wordOfBytes bs

/-- The first `k` bytes of a word, byte 0 in bits 7:0 (R60). -/
def bytesOfWord : Nat → Nat → List Byte
  | 0, _ => []
  | k + 1, w => BitVec.ofNat 8 w :: bytesOfWord k (w / 256)

theorem bytesOfWord_length (k w : Nat) : (bytesOfWord k w).length = k := by
  induction k generalizing w with
  | zero => rfl
  | succ k ih => simp [bytesOfWord, ih]

/-- The request word `f[95:0]` of a Frame (R60). -/
def wordOfFrame (f : Frame) : Nat := wordOfBytes f.toList

/-- The Frame a request word `f[95:0]` carries (R60). -/
def frameOfWord (w : Nat) : Frame := ⟨(bytesOfWord 12 w).toArray, by simp [bytesOfWord_length]⟩

/-! ## Decoding -/

/-- Why a word is no request of its port. -/
inductive DecodeError where
  /-- The word has a bit above the port's width. -/
  | wordTooWide (port : Port)
deriving DecidableEq, Repr

/-- R87, the selection of the one case a received byte runs: AfterEscape is tested first, then `DELIM`, then `ESC`,
then the count. -/
def decodeRx (c : Cfg) (x : RxContext) (b : Byte) : Instr :=
  if x.isAfterEscape then
    if b = c.subD then .rxbAfterescSubd
    else if b = c.subE then .rxbAfterescSube
    else .rxbAfterescInvalid b
  else if b = c.delim then
    if x.isIdle then .rxbIdleDelim else .rxbInframeDelim
  else if b = c.esc then
    if x.isIdle then .rxbIdleEsc else .rxbInframeEsc
  else
    if x.isIdle then .rxbIdleOther b
    else if x.n < 12 then .rxbInframeData b
    else .rxbInframeOverflow b

/-- R53, the class of a data byte inside the encoder, in the order of its tests. -/
def decodeTxByte (c : Cfg) (d : Byte) : Instr :=
  if d = c.delim then .encByteDelim
  else if d = c.esc then .encByteEsc
  else .encBytePlain d

/-- R61: `rm` in bit 0, `lid` in the bits above it. -/
def decodeBus (w : Nat) : Instr :=
  if w % 2 = 0 then .register (w / 2) else .remove (w / 2)

/-- R63: `run = 1` is `START`, `run = 0` is `STOP`. -/
def decodeCtl (w : Nat) : Instr :=
  if w % 2 = 1 then .start else .stop

/-- The width in bits of a port's request word (R58 to R63; log entries 15 and 16). -/
def Port.width (c : Cfg) : Port → Nat
  | .rx => 8
  | .send => 96
  | .func => 96
  | .bus => c.lw + 1
  | .ctl => 1
  | .rst => 0
  | .txByte => 8
  | .txFrame => 96
  | .deliver => c.lw + 96
  | .internal => 96

/-- The operation of a word that fits its port. -/
def decodeFitting (c : Cfg) (x : RxContext) : Port → Nat → Instr
  | .rx, w => decodeRx c x (BitVec.ofNat 8 w)
  | .send, w => .send (frameOfWord w)
  | .func, w => .encode (frameOfWord w)
  | .bus, w => decodeBus w
  | .ctl, w => decodeCtl w
  | .rst, _ => .reset
  | .txByte, w => decodeTxByte c (BitVec.ofNat 8 w)
  | .txFrame, w => .encFrame (frameOfWord w)
  | .deliver, w => .deliver (w / 2 ^ 96) (frameOfWord w)
  | .internal, w => if c.persist then .dispatchPersist (frameOfWord w) else .dispatchDrain (frameOfWord w)

/-- The operation a request stands for, in the decoder's context, or the reason it is none. -/
def decode (c : Cfg) (x : RxContext) (r : Request) : Except DecodeError Instr :=
  if r.word < 2 ^ r.port.width c then .ok (decodeFitting c x r.port r.word)
  else .error (.wordTooWide r.port)

/-! ## Encoding -/

/-- The request word of a received byte. -/
def rxRequest (b : Byte) : Request := ⟨.rx, b.toNat⟩

/-- The word of an operation, from the same tables (R53, R55, R58 to R63). -/
def encode (c : Cfg) : Instr → Request
  | .rxbIdleDelim => rxRequest c.delim
  | .rxbIdleEsc => rxRequest c.esc
  | .rxbIdleOther b => rxRequest b
  | .rxbInframeDelim => rxRequest c.delim
  | .rxbInframeEsc => rxRequest c.esc
  | .rxbInframeData b => rxRequest b
  | .rxbInframeOverflow b => rxRequest b
  | .rxbAfterescSubd => rxRequest c.subD
  | .rxbAfterescSube => rxRequest c.subE
  | .rxbAfterescInvalid b => rxRequest b
  | .encByteDelim => ⟨.txByte, c.delim.toNat⟩
  | .encByteEsc => ⟨.txByte, c.esc.toNat⟩
  | .encBytePlain d => ⟨.txByte, d.toNat⟩
  | .encFrame f => ⟨.txFrame, wordOfFrame f⟩
  | .encode f => ⟨.func, wordOfFrame f⟩
  | .send f => ⟨.send, wordOfFrame f⟩
  | .register lid => ⟨.bus, 2 * lid⟩
  | .remove lid => ⟨.bus, 2 * lid + 1⟩
  | .dispatchDrain f => ⟨.internal, wordOfFrame f⟩
  | .dispatchPersist f => ⟨.internal, wordOfFrame f⟩
  | .deliver lid f => ⟨.deliver, wordOfFrame f + 2 ^ 96 * lid⟩
  | .start => ⟨.ctl, 1⟩
  | .stop => ⟨.ctl, 0⟩
  | .reset => ⟨.rst, 0⟩

/-! ## Words without a port -/

/-- The operation of a table word that comes without its port and context (log entry 17), under the default `Cfg`, as
R66 gives the table's `match` values. A one-byte word is the row with the most fixed bits that match it, the earliest
such row of the table: a reserved byte at RX in the first context that names it, any other word at BUS. A word of 96
bits is a SEND request, a single bit a CTL request, no bits at all the reset input. -/
def decodeTableWord (nbits w : Nat) : Option Instr :=
  let at_ (x : RxContext) (p : Port) : Option Instr := (decode Cfg.default x ⟨p, w⟩).toOption
  let idle : RxContext := ⟨.idle, false, 0⟩
  let afterEscape : RxContext := ⟨.inFrame, true, 0⟩
  if nbits = 0 then at_ idle .rst
  else if nbits = 1 then at_ idle .ctl
  else if nbits = 8 then
    if w = Cfg.default.delim.toNat ∨ w = Cfg.default.esc.toNat then at_ idle .rx
    else if w = Cfg.default.subD.toNat ∨ w = Cfg.default.subE.toNat then at_ afterEscape .rx
    else at_ idle .bus
  else if nbits = 16 then at_ idle .bus
  else if nbits = 96 then at_ idle .send
  else none

end Sys2Proof
end

