-- ==== Sys2Proof/Machine/State.lean ====
section
/-! DEFINITION. The state of one link instance (spec/10_state.md R10, R24), with what stands at its ports (spec/20_memory.md
R30, spec/30_encoding.md R58 to R63), and the state after reset (R26). -/

namespace Sys2Proof.Machine

/-- The faults of the block: none. "the decoder's transition is a total function; it never blocks, faults or refuses a
byte" (R87); no event of R130 stops the block, and there are no traps (R138). -/
inductive Fault where
deriving DecidableEq, Repr

/-- Why the model gives an operation no meaning. -/
inductive Refusal where
  /-- Raised by an arm of `exec` whose meaning is not written. Safe. -/
  | notModelled (mnemonic : String)
  /-- Raised by a meaning applied where its table row does not apply: outside its `context` or `guard`, with an operand
  that a higher-priority row takes or that does not fit its field, or (RX rows) while `running = 0`, when R115 accepts
  no byte. `step` never selects such a row. Safe (log entry 14). -/
  | rowNotSelected
  /-- Raised by `step` on a request word with a bit above its port's width, which no port can carry. Safe (log
  entry 15). -/
  | malformedRequest
deriving DecidableEq, Repr

/-- What one operation ends in. -/
abbrev Result (S : Type) := Host.Outcome S Fault Refusal

/-- The five error events with the information of their label (R130). -/
inductive Event where
  /-- (a), R131. -/
  | strayByte (b : Byte)
  /-- (b), R132. -/
  | invalidEscape (b : Byte)
  /-- (c), R133. -/
  | frameLength (n : Nat) (ovf : Bool)
  /-- (d), R134. -/
  | channelFailure
  /-- (e), R135. -/
  | overflow (b : Byte)
deriving DecidableEq, Repr

/-- One `deliver(lid, f)` transaction at the DELIVER port (R62). -/
structure Delivery where
  lid : Nat
  frame : Frame
deriving DecidableEq, Repr

/-- The SEND port's response: `ok` and `len[4:0]` (R60). -/
structure SendResponse where
  ok : Bool
  len : BitVec 5
deriving DecidableEq, Repr

/-- `LinkState` (R10). -/
structure LinkState where
  /-- The decoder's state (R13). -/
  st : DecoderState
  /-- AfterEscape (R15). -/
  esc : Bool
  /-- The collected-byte count (R12). -/
  n : Nat
  /-- A data byte was offered at `n = 12` in this frame (R16). -/
  ovf : Bool
  /-- The collect buffer (R11). -/
  buf : Frame
  /-- The listener registry, oldest first (R18). -/
  reg : List Nat
  /-- The receive loop is active (R17). -/
  running : Bool
deriving DecidableEq, Repr

/-- What stands at the block's inputs: "none is the block's" (R23). Each port's requests are in the order the port
presents them, oldest first (log entry 6). -/
structure Inputs where
  /-- RX: the receive stream (R30, R58). -/
  rx : List Byte
  /-- SEND: request words `f[95:0]` (R60). -/
  send : List FrameWord
  /-- FUNC: calls of `ENCODE`, words `f[95:0]`. -/
  func : List FrameWord
  /-- BUS: request words (R61). -/
  bus : List Nat
  /-- CTL: request bits `run` (R63). -/
  ctl : List (BitVec 1)
  /-- The reset input: how many `RESET`s are presented (R155). -/
  rst : Nat
  /-- FREE VALUE: which ready port is taken next (R40, log entry 7). -/
  pick : Nat
  /-- FREE VALUE: the channel's answer to the next burst (R59, R72, log entry 8). -/
  chanOk : Bool
  /-- How many of the coming deliveries complete before one whose listener never completes it; `none`: all do. What a
  listener does is `any value` (spec/93_implementation_defined.md U10, spec/20_memory.md R42; log entry 10). -/
  stall : Option Nat
  /-- The model's own counter of free values drawn (log entry 8). -/
  draws : Nat
  /-- The model's own name of the environment the free values are drawn from, one per instance (R150; a DESIGN CHOICE, log
  entry 34). -/
  env : Nat
deriving DecidableEq, Repr

/-- What the block has put out, oldest first (log entry 12). No operation reads it. -/
structure Outputs where
  /-- TX: the transmit stream (R30, R59). -/
  tx : List Byte
  /-- DELIVER: the transactions made (R62). -/
  delivered : List Delivery
  /-- SEND: the responses (R60). -/
  sendResp : List SendResponse
  /-- BUS: the responses `acc` (R61). -/
  busAcc : List Bool
  /-- FUNC: the results of `ENCODE` (R70). -/
  encoded : List (List Byte)
  /-- TXENC: what the encoder's rows emitted (R53, log entry 28). -/
  encOut : List Byte
  /-- The labels of R130: "a label on the step and nothing more" (log entry 13). -/
  labels : List Event
deriving DecidableEq, Repr

end Sys2Proof.Machine

namespace Sys2Proof.Machine

/-- One link instance: its constant configuration (R24), its `LinkState` (R10) and its ports. -/
structure State where
  cfg : Cfg
  link : LinkState
  inp : Inputs
  out : Outputs
  /-- The `deliver` transaction at the DELIVER port that its listener never completes: from then on "no later operation of
  that instance other than `SEND` is taken; there is no time-out" (spec/93_implementation_defined.md U10, spec/20_memory.md
  R42, spec/70_reset_and_hazards.md R164). -/
  stuck : Option Delivery
deriving DecidableEq, Repr

/-- The decoder's context (R14). -/
abbrev State.context (s : State) : RxContext := ⟨s.link.st, s.link.esc, s.link.n⟩

/-- The collect buffer right after reset: zero, a DESIGN CHOICE, since R26 says "unspecified" (log entry 4). -/
def resetBuf : Frame := Vector.replicate 12 0

/-- R26's values. -/
def LinkState.reset : LinkState where
  st := .idle
  esc := false
  n := 0
  ovf := false
  buf := resetBuf
  reg := []
  running := false

/-- Nothing presented and nothing drawn. `pick` and `chanOk` are free values, set here by a DESIGN CHOICE (log entry 8), as
are `stall`, no listener that fails to complete (log entry 10), and `env`, the same in every instance (log entry 34). -/
def Inputs.none : Inputs where
  rx := []
  send := []
  func := []
  bus := []
  ctl := []
  rst := 0
  pick := 0
  chanOk := true
  stall := Option.none
  draws := 0
  env := 0

/-- Nothing put out. -/
def Outputs.none : Outputs := ⟨[], [], [], [], [], [], []⟩

/-- An instance of configuration `c` right after reset (R26, R155). -/
def State.resetWith (c : Cfg) : State := ⟨c, .reset, .none, .none, Option.none⟩

/-- The instance of the default configuration right after reset. -/
def State.reset : State := .resetWith .default

end Sys2Proof.Machine
end

