-- ==== Sys2Proof/Machine/Flags.lean ====
section
/-! DEFINITION. The three flags `esc`, `ovf`, `running` (spec/10_state.md R15 to R17) as functions of what sets, clears
and reads them. There are no condition codes (R17). -/

namespace Sys2Proof.Machine

/-- There is room for another data byte, `n < 12` (R12, R92). -/
def hasRoom (l : LinkState) : Bool := decide (l.n < 12)

/-- `ovf` after a data byte was offered: set when twelve are collected already, else kept (R16). -/
def ovfAfterOffer (l : LinkState) : Bool := l.ovf || !hasRoom l

/-- R83's test: the closing delimiter completes a frame. -/
def completesFrame (c : Cfg) (l : LinkState) : Bool :=
  decide (l.n = 12) && (!l.ovf || c.longFrameEmits)

/-- R100's test: the registry has room for another entry. -/
def registryHasRoom (c : Cfg) (reg : List Nat) : Bool :=
  match c.lmax with
  | none => true
  | some m => decide (reg.length < m)

end Sys2Proof.Machine
end

