-- ==== Sys2Proof/Machine/Operands.lean ====
section
/-! DEFINITION. The forms data takes: the escape substitution of a data byte and the encoded frame (spec/30_encoding.md
R50, R53, spec/40_encoder.md R70), and the views of a Frame (spec/10_state.md R19, R20, spec/20_memory.md R32). -/

namespace Sys2Proof.Machine

/-- `e(b)` of R53: one data byte on the wire. -/
def escapeByte (c : Cfg) (b : Byte) : List Byte :=
  if b = c.delim then [c.esc, c.subD]
  else if b = c.esc then [c.esc, c.subE]
  else [b]

/-- `e(b)` of each byte in order. -/
def escapeBytes (c : Cfg) : List Byte → List Byte
  | [] => []
  | b :: bs => escapeByte c b ++ escapeBytes c bs

/-- `enc(f)`: `DELIM`, the twelve data bytes escaped in index order, `DELIM` (R50, R70). -/
def encodeFrame (c : Cfg) (f : Frame) : List Byte :=
  c.delim :: (escapeBytes c f.toList ++ [c.delim])

/-- `r(f)` of R71: how many bytes of a Frame are reserved values. -/
def reservedCount (c : Cfg) (f : Frame) : Nat := f.toList.countP (isReserved c)

/-- `id(f) = f[0..3]` (R19). -/
def frameId (f : Frame) : List Byte := f.toList.take 4

/-- `payload(f) = f[4..11]` (R19). -/
def framePayload (f : Frame) : List Byte := f.toList.drop 4

/-- `half(f, k)` for `k = 0..5`, little-endian (R32): a consumer's view, outside the block. -/
def frameHalf (f : Frame) (k : Fin 6) : BitVec 16 :=
  f[2 * k.val + 1] ++ f[2 * k.val]

/-- `word(f, k)` for `k = 0..2`, little-endian (R32): a consumer's view, outside the block. -/
def frameWord (f : Frame) (k : Fin 3) : BitVec 32 :=
  f[4 * k.val + 3] ++ f[4 * k.val + 2] ++ f[4 * k.val + 1] ++ f[4 * k.val]

/-- `id_word(f) = word(f, 0)` (R32). -/
def frameIdWord (f : Frame) : BitVec 32 := frameWord f 0

end Sys2Proof.Machine
end

