-- ==== Sys2Proof/Machine/Ops.lean ====
section
/-! DEFINITION. The shared operations over the block's storage and ports that the meanings are written with: the outputs
`tx_emit`, `deliver`, `result`, `raise` of spec/00_scope.md section 5, the decoder's moves of spec/41_decoder.md, and
dispatch (spec/42_framebus.md R102, R103). -/

namespace Sys2Proof.Machine

/-! ## Outputs -/

/-- `raise <Event>(info)`, the block's counterpart of taking an exception: "a label on the step and nothing more: it writes
no state, drives no port" (R130); nothing is saved, no mode changes and control goes nowhere (R138), so there is no
return either (R139). -/
def raiseEvent (e : Event) (s : State) : State :=
  { s with out.labels := s.out.labels ++ [e] }

/-- `deliver(lid, f)` (R62): the transaction completes, or its listener never completes it and the block is stuck in it
(spec/93_implementation_defined.md U10; log entry 10). -/
def deliverFrame (lid : Nat) (f : Frame) (s : State) : State :=
  match s.inp.stall with
  | none => { s with out.delivered := s.out.delivered ++ [⟨lid, f⟩] }
  | some 0 => { s with stuck := some ⟨lid, f⟩ }
  | some (k + 1) => { s with out.delivered := s.out.delivered ++ [⟨lid, f⟩], inp.stall := some k }

/-- `tx_emit(bytes)`, one burst (R59). -/
def txEmit (bytes : List Byte) (s : State) : State :=
  { s with out.tx := s.out.tx ++ bytes }

/-- `result(ok, len)` at the SEND port (R60). -/
def respondSend (ok : Bool) (len : Nat) (s : State) : State :=
  { s with out.sendResp := s.out.sendResp ++ [⟨ok, BitVec.ofNat 5 len⟩] }

/-- `result(acc)` at the BUS port (R61). -/
def respondBus (acc : Bool) (s : State) : State :=
  { s with out.busAcc := s.out.busAcc ++ [acc] }

/-- `result(out)` of `ENCODE` (R70). -/
def returnEncoding (bytes : List Byte) (s : State) : State :=
  { s with out.encoded := s.out.encoded ++ [bytes] }

/-- What a row of TXENC emits (R53, R66). -/
def emitEncoder (bytes : List Byte) (s : State) : State :=
  { s with out.encOut := s.out.encOut ++ bytes }

/-! ## Free values -/

/-- The channel's next answer is a new free value (R72) of this instance's environment (log entries 8 and 34). -/
def drawChanOk (s : State) : State :=
  { s with inp.chanOk := Config.nextChanOk s.inp.env s.inp.draws, inp.draws := s.inp.draws + 1 }

/-- `buf` becomes unspecified (R155; log entries 5 and 34). -/
def drawBuf (s : State) : State :=
  { s with link.buf := Config.unspecifiedBuf s.inp.env s.inp.draws, inp.draws := s.inp.draws + 1 }

/-! ## The decoder's moves -/

/-- `st <- S; esc <- 0; n <- 0; ovf <- 0`: the decoder begins a frame or rests, `buf` untouched. -/
def enterState (st : DecoderState) (s : State) : State :=
  { s with link.st := st, link.esc := false, link.n := 0, link.ovf := false }

/-- `esc <- v`. -/
def setEsc (v : Bool) (s : State) : State :=
  { s with link.esc := v }

/-- `running <- v`. -/
def setRunning (v : Bool) (s : State) : State :=
  { s with link.running := v }

/-- `reg <- r`. -/
def setRegistry (r : List Nat) (s : State) : State :=
  { s with link.reg := r }

/-- A data byte is offered to the collect buffer: `buf[n] <- v; n <- n + 1` if `n < 12` (R85, R88, R89), else the byte
is dropped, `ovf <- 1` and `Overflow(v)` is raised (R86, R88, R89). -/
def offerByte (v : Byte) (s : State) : State :=
  if h : s.link.n < 12 then
    { s with link.buf := s.link.buf.set s.link.n v h, link.n := s.link.n + 1 }
  else
    raiseEvent (.overflow v) { s with link.ovf := ovfAfterOffer s.link }

/-! ## Dispatch -/

/-- The next delivery is one that its listener never completes (spec/93_implementation_defined.md U10). -/
def nextStalls (s : State) : Bool := s.inp.stall == some 0

/-- R102's loop over the entries `ls` that are still registered: each leaves the registry "the moment it is invoked". A
delivery that never completes ends it there (U10; log entry 10). -/
def drainTo (f : Frame) : List Nat → State → State
  | [], s => setRegistry [] s
  | l :: ls, s =>
    if nextStalls s then deliverFrame l f (setRegistry ls s)
    else drainTo f ls (deliverFrame l f (setRegistry ls s))

/-- R103's loop. A delivery that never completes ends it there (U10). -/
def deliverAll (f : Frame) : List Nat → State → State
  | [], s => s
  | l :: ls, s =>
    if nextStalls s then deliverFrame l f s
    else deliverAll f ls (deliverFrame l f s)

/-- `DISPATCH(F)` (R91): drain-on-dispatch or non-destructive, as `Cfg.PERSIST` says. -/
def dispatch (f : Frame) (s : State) : State :=
  if s.cfg.persist then deliverAll f s.link.reg s else drainTo f s.link.reg s

/-! ## Where a row runs -/

/-- The effect of a row of the table where the row applies (`context`, `guard`, operand): what the operation does once it
is taken. Which operations are taken is the arbiter's (`portReady`). -/
def onRow (i : Instr) (s t : State) : Result State :=
  if i.wf s.cfg && i.applies s.cfg s.context then .next t else .refused .rowNotSelected

/-- The effect of an RX row: a byte is accepted only while `running = 1` (R115). -/
def onRxRow (i : Instr) (s t : State) : Result State :=
  if s.link.running then onRow i s t else .refused .rowNotSelected

end Sys2Proof.Machine
end

