-- ==== Sys2Proof/Machine/Bus.lean ====
section
/-! DEFINITION. The listener registry and the dispatch demultiplexer: `REGISTER`, `REMOVE`, `DISPATCH`, `DELIVER`
(spec/42_framebus.md R100 to R103, spec/30_encoding.md R62). -/

namespace Sys2Proof.Machine

/-- R100's two branches: append, or refuse on a full registry. -/
def registerListener (lid : Nat) (s : State) : State :=
  if registryHasRoom s.cfg s.link.reg then
    respondBus true (setRegistry (s.link.reg ++ [lid]) s)
  else
    respondBus false s

/-- R100. -/
def execRegister (lid : Nat) (s : State) : Result State :=
  onRow (.register lid) s (registerListener lid s)

/-- R101's deletion: the entry of least index that equals `lid`, the order of the others kept. -/
def deleteOldest (lid : Nat) : List Nat → List Nat
  | [] => []
  | l :: ls => if l = lid then ls else l :: deleteOldest lid ls

/-- R101: a `lid` that is not registered changes nothing. -/
def execRemove (lid : Nat) (s : State) : Result State :=
  onRow (.remove lid) s
    (respondBus (decide (lid ∈ s.link.reg)) (setRegistry (deleteOldest lid s.link.reg) s))

/-- R102: drain-on-dispatch. -/
def execDispatchDrain (f : Frame) (s : State) : Result State :=
  onRow (.dispatchDrain f) s (drainTo f s.link.reg s)

/-- R103: non-destructive dispatch. -/
def execDispatchPersist (f : Frame) (s : State) : Result State :=
  onRow (.dispatchPersist f) s (deliverAll f s.link.reg s)

/-- R62: one output transaction. -/
def execDeliver (lid : Nat) (f : Frame) (s : State) : Result State :=
  onRow (.deliver lid f) s (deliverFrame lid f s)

end Sys2Proof.Machine
end

