-- ==== Sys2Proof/Machine/Encoder.lean ====
section
/-! DEFINITION. The transmit family: the encoder's rows (spec/30_encoding.md R50, R53), `ENCODE` and `SEND`
(spec/40_encoder.md R70, R72, R73). None reads or writes any part of `LinkState` (R43). -/

namespace Sys2Proof.Machine

/-- R53: a data byte `DELIM` leaves as `ESC, SUB_D`. -/
def execEncByteDelim (s : State) : Result State :=
  onRow .encByteDelim s (emitEncoder [s.cfg.esc, s.cfg.subD] s)

/-- R53: a data byte `ESC` leaves as `ESC, SUB_E`. -/
def execEncByteEsc (s : State) : Result State :=
  onRow .encByteEsc s (emitEncoder [s.cfg.esc, s.cfg.subE] s)

/-- R53: any other data byte leaves unchanged. -/
def execEncBytePlain (d : Byte) (s : State) : Result State :=
  onRow (.encBytePlain d) s (emitEncoder [d] s)

/-- R50: the delimited stream encoding of a Frame. -/
def execEncFrame (f : Frame) (s : State) : Result State :=
  onRow (.encFrame f) s (emitEncoder (encodeFrame s.cfg f) s)

/-- R70: the pure function; its result goes back to the caller. -/
def execEncode (f : Frame) (s : State) : Result State :=
  onRow (.encode f) s (returnEncoding (encodeFrame s.cfg f) s)

/-- R72's two branches: the burst goes out whole, or `ChannelFailure` and not one byte (R73). -/
def sendFrame (f : Frame) (s : State) : State :=
  if s.inp.chanOk then
    respondSend true (encodeFrame s.cfg f).length (txEmit (encodeFrame s.cfg f) s)
  else
    respondSend false 0 (raiseEvent .channelFailure s)

/-- R72: the channel's answer to this burst is used up and its next one is free. -/
def execSend (f : Frame) (s : State) : Result State :=
  onRow (.send f) s (drawChanOk (sendFrame f s))

end Sys2Proof.Machine
end

