-- ==== Sys2Proof/Machine/Link.lean ====
section
/-! DEFINITION. Link control: `START`, `STOP` (spec/43_link_control.md R117, R118) and `RESET`
(spec/70_reset_and_hazards.md R155). -/

namespace Sys2Proof.Machine

/-- R117: no effect while `running = 1`. -/
def execStart (s : State) : Result State :=
  onRow .start s (if s.link.running then s else enterState .idle (setRunning true s))

/-- R118: no effect while `running = 0`. -/
def execStop (s : State) : Result State :=
  onRow .stop s (if s.link.running then enterState .idle (setRunning false s) else s)

/-- R155: the values of R26; `buf` becomes unspecified; `Cfg`, the requests waiting at the ports and the outputs made
before stand (log entry 26). -/
def execReset (s : State) : Result State :=
  onRow .reset s (drawBuf (enterState .idle (setRunning false (setRegistry [] s))))

end Sys2Proof.Machine
end

