-- ==== Sys2Proof/Machine/Rxb.lean ====
section
/-! DEFINITION. `RXB(b)`: the ten cases of the decoder, spec/41_decoder.md R80 to R90. -/

namespace Sys2Proof.Machine

/-- R80: start of frame; `buf` is not cleared. -/
def execRxbIdleDelim (s : State) : Result State :=
  onRxRow .rxbIdleDelim s (enterState .inFrame s)

/-- R81: a stray `ESC`; Idle has no escape sub-state. -/
def execRxbIdleEsc (s : State) : Result State :=
  onRxRow .rxbIdleEsc s (raiseEvent (.strayByte s.cfg.esc) s)

/-- R82: a stray byte. -/
def execRxbIdleOther (b : Byte) (s : State) : Result State :=
  onRxRow (.rxbIdleOther b) s (raiseEvent (.strayByte b) s)

/-- R83's two branches: a completed Frame is copied from `buf` and dispatched from Idle (R91), or the frame is
discarded. -/
def closeFrame (s : State) : State :=
  if completesFrame s.cfg s.link then
    dispatch s.link.buf (enterState .idle s)
  else
    enterState .idle (raiseEvent (.frameLength s.link.n s.link.ovf) s)

/-- R83: closing delimiter. -/
def execRxbInframeDelim (s : State) : Result State :=
  onRxRow .rxbInframeDelim s (closeFrame s)

/-- R84: escape introducer; the `ESC` itself is never stored. -/
def execRxbInframeEsc (s : State) : Result State :=
  onRxRow .rxbInframeEsc s (setEsc true s)

/-- R85: data byte. -/
def execRxbInframeData (b : Byte) (s : State) : Result State :=
  onRxRow (.rxbInframeData b) s (offerByte b s)

/-- R86: data byte beyond capacity. -/
def execRxbInframeOverflow (b : Byte) (s : State) : Result State :=
  onRxRow (.rxbInframeOverflow b) s (offerByte b s)

/-- R88: escaped delimiter. -/
def execRxbAfterescSubd (s : State) : Result State :=
  onRxRow .rxbAfterescSubd s (offerByte s.cfg.delim (setEsc false s))

/-- R89: escaped ESC. -/
def execRxbAfterescSube (s : State) : Result State :=
  onRxRow .rxbAfterescSube s (offerByte s.cfg.esc (setEsc false s))

/-- R90: invalid escape; `b` is dropped, even if it is `DELIM` or `ESC`. -/
def execRxbAfterescInvalid (b : Byte) (s : State) : Result State :=
  onRxRow (.rxbAfterescInvalid b) s (raiseEvent (.invalidEscape b) (setEsc false s))

end Sys2Proof.Machine
end

