-- ==== Sys2Proof/Machine/Dispatch.lean ====
section
/-! DEFINITION. The meaning of every operation: one arm per row of spec/opcode_table.json. -/

namespace Sys2Proof.Machine

def exec (i : Instr) (s : State) : Host.Outcome State Fault Refusal :=
  match i with
  | .rxbIdleDelim => Sys2Proof.Machine.execRxbIdleDelim s
  | .rxbIdleEsc => Sys2Proof.Machine.execRxbIdleEsc s
  | .rxbIdleOther b => Sys2Proof.Machine.execRxbIdleOther b s
  | .rxbInframeDelim => Sys2Proof.Machine.execRxbInframeDelim s
  | .rxbInframeEsc => Sys2Proof.Machine.execRxbInframeEsc s
  | .rxbInframeData b => Sys2Proof.Machine.execRxbInframeData b s
  | .rxbInframeOverflow b => Sys2Proof.Machine.execRxbInframeOverflow b s
  | .rxbAfterescSubd => Sys2Proof.Machine.execRxbAfterescSubd s
  | .rxbAfterescSube => Sys2Proof.Machine.execRxbAfterescSube s
  | .rxbAfterescInvalid b => Sys2Proof.Machine.execRxbAfterescInvalid b s
  | .encByteDelim => Sys2Proof.Machine.execEncByteDelim s
  | .encByteEsc => Sys2Proof.Machine.execEncByteEsc s
  | .encBytePlain d => Sys2Proof.Machine.execEncBytePlain d s
  | .encFrame f => Sys2Proof.Machine.execEncFrame f s
  | .encode f => Sys2Proof.Machine.execEncode f s
  | .send f => Sys2Proof.Machine.execSend f s
  | .register lid => Sys2Proof.Machine.execRegister lid s
  | .remove lid => Sys2Proof.Machine.execRemove lid s
  | .dispatchDrain f => Sys2Proof.Machine.execDispatchDrain f s
  | .dispatchPersist f => Sys2Proof.Machine.execDispatchPersist f s
  | .deliver lid f => Sys2Proof.Machine.execDeliver lid f s
  | .start => Sys2Proof.Machine.execStart s
  | .stop => Sys2Proof.Machine.execStop s
  | .reset => Sys2Proof.Machine.execReset s

end Sys2Proof.Machine
end

