-- ==== Sys2Proof/Machine/Ports.lean ====
section
/-! DEFINITION. Which presented request enters the total order next (spec/20_memory.md R38, R40, spec/43_link_control.md
R115, R116), how it is read, and how a request comes to stand at a port. -/

namespace Sys2Proof.Machine

/-- The word at the head of a port, if one is presented there. DELIVER is an output, INTERNAL and TXENC stand inside the
block: no request is ever presented there (R146). -/
def presented (p : Port) (s : State) : Option Nat :=
  match p with
  | .rx => s.inp.rx.head?.map BitVec.toNat
  | .send => s.inp.send.head?.map BitVec.toNat
  | .func => s.inp.func.head?.map BitVec.toNat
  | .bus => s.inp.bus.head?
  | .ctl => s.inp.ctl.head?.map BitVec.toNat
  | .rst => if s.inp.rst = 0 then none else some 0
  | .txByte => none
  | .txFrame => none
  | .deliver => none
  | .internal => none

/-- The ports at which a request can be presented. -/
def inputPorts : List Port := [.rx, .send, .func, .bus, .ctl, .rst]

/-- A request stands at the port and could be accepted: a byte only while `running = 1` (R115), every other request at
any time (R43, R100, R117, R118); while a delivery is stuck, and its dispatch thus in progress for good, nothing but a
`SEND` (spec/93_implementation_defined.md U10, R115; log entry 10). No other dispatch is in progress between two
operations (R38), and the pause is timing only (R119). -/
def portReady (s : State) (p : Port) : Bool :=
  (presented p s).isSome && (p != .rx || s.link.running) && (s.stuck.isNone || p == .send)

/-- The ports whose request could be accepted now. -/
def readyPorts (s : State) : List Port := inputPorts.filter (portReady s)

/-- The port taken next. Where two or more are ready "any order is allowed" (R40): the free value `pick` says which. -/
def granted (s : State) : Option Port :=
  match readyPorts s with
  | [] => none
  | [p] => some p
  | p :: q :: ps => (p :: q :: ps)[s.inp.pick % (ps.length + 2)]?

/-- Take the head request off a port: "accepting a byte from the channel consumes it" (R37). -/
def takeRequest (p : Port) (s : State) : State :=
  match p with
  | .rx => { s with inp.rx := s.inp.rx.tail }
  | .send => { s with inp.send := s.inp.send.tail }
  | .func => { s with inp.func := s.inp.func.tail }
  | .bus => { s with inp.bus := s.inp.bus.tail }
  | .ctl => { s with inp.ctl := s.inp.ctl.tail }
  | .rst => { s with inp.rst := s.inp.rst - 1 }
  | .txByte => s
  | .txFrame => s
  | .deliver => s
  | .internal => s

/-- The arbiter's next choice is a new free value (R40) of this instance's environment (log entries 7 and 34). -/
def drawPick (s : State) : State :=
  { s with inp.pick := Config.nextPick s.inp.env s.inp.draws, inp.draws := s.inp.draws + 1 }

/-- A request is accepted at port `p`. -/
def accept (p : Port) (s : State) : State := drawPick (takeRequest p s)

/-- The operation at the head of a port, read in the decoder's context. -/
def fetchAt (p : Port) (s : State) : Except DecodeError Instr :=
  decode s.cfg s.context ⟨p, (presented p s).getD 0⟩

/-! ## Placing a request -/

/-- Put a request at the head of its port. -/
def pushRequest (r : Request) (s : State) : State :=
  match r.port with
  | .rx => { s with inp.rx := BitVec.ofNat 8 r.word :: s.inp.rx }
  | .send => { s with inp.send := BitVec.ofNat 96 r.word :: s.inp.send }
  | .func => { s with inp.func := BitVec.ofNat 96 r.word :: s.inp.func }
  | .bus => { s with inp.bus := r.word :: s.inp.bus }
  | .ctl => { s with inp.ctl := BitVec.ofNat 1 r.word :: s.inp.ctl }
  | .rst => { s with inp.rst := s.inp.rst + 1 }
  | .txByte => s
  | .txFrame => s
  | .deliver => s
  | .internal => s

/-- Have the arbiter take port `p` next. -/
def choosePort (p : Port) (s : State) : State :=
  { s with inp.pick := (readyPorts s).idxOf p }

/-- The decoder resting in Idle with the receive loop active. -/
def placeIdle (s : State) : State := enterState .idle (setRunning true s)

/-- The decoder inside a frame with the receive loop active, in AfterEscape or not; what it has collected stands. -/
def placeInFrame (esc : Bool) (s : State) : State :=
  { s with link.running := true, link.st := .inFrame, link.esc := esc }

/-- The decoder inside a frame with `n` bytes collected. -/
def placeCount (n : Nat) (s : State) : State := { s with link.n := n }

/-- Bring the decoder into the context in which a row applies; rows of other ports need none. -/
def enterContext (i : Instr) (s : State) : State :=
  match i with
  | .rxbIdleDelim => placeIdle s
  | .rxbIdleEsc => placeIdle s
  | .rxbIdleOther _ => placeIdle s
  | .rxbInframeDelim => placeInFrame false s
  | .rxbInframeEsc => placeInFrame false s
  | .rxbInframeData _ => if s.link.n < 12 then placeInFrame false s else enterState .inFrame (setRunning true s)
  | .rxbInframeOverflow _ => placeCount 12 (placeInFrame false s)
  | .rxbAfterescSubd => placeInFrame true s
  | .rxbAfterescSube => placeInFrame true s
  | .rxbAfterescInvalid _ => placeInFrame true s
  | .encByteDelim => s
  | .encByteEsc => s
  | .encBytePlain _ => s
  | .encFrame _ => s
  | .encode _ => s
  | .send _ => s
  | .register _ => s
  | .remove _ => s
  | .dispatchDrain _ => s
  | .dispatchPersist _ => s
  | .deliver _ _ => s
  | .start => s
  | .stop => s
  | .reset => s

/-- No delivery is stuck. -/
def placeUnstuck (s : State) : State := { s with stuck := none }

/-- The state in which the very next step runs `i` (log entry 18): its row's context, its request at the head of its
port, no stuck delivery, and the arbiter about to take it. -/
def present (i : Instr) (s : State) : State :=
  choosePort (encode s.cfg i).port (pushRequest (encode s.cfg i) (enterContext i (placeUnstuck s)))

end Sys2Proof.Machine
end

