-- ==== Sys2Proof/Machine/Step.lean ====
section
/-! DEFINITION. One step: the next request of the total order is accepted and run whole (spec/20_memory.md R38,
spec/43_link_control.md R116). -/

namespace Sys2Proof.Machine

/-- Take the granted request, read it in the decoder's context, run it. With none to accept the block "simply waits;
waiting changes no state" (R115). -/
def step (s : State) : Host.Outcome State Fault Refusal :=
  match granted s with
  | none => .next s
  | some p =>
    match fetchAt p s with
    | .ok i => exec i (accept p s)
    | .error _ => .refused .malformedRequest

/-- The state in which the very next step runs the operation of a table word (log entries 17 and 18). -/
def State.withFetchWord (s : State) (nbits w : Nat) : State :=
  match Sys2Proof.decodeTableWord nbits w with
  | some i => present i s
  | none => s

end Sys2Proof.Machine
end

