-- ==== Sys2Proof/Safety.lean ====
section
/-! DEFINITION. What a safe run is: the invariants of spec/10_state.md R21, what may stand at the ports, and the runs that
spec/20_memory.md R40 admits. -/

namespace Sys2Proof.Machine

/-- R21, its six items, and R18's width of an entry. -/
structure State.Inv (s : State) : Prop where
  /-- Item 1. -/
  count_le : s.link.n ≤ 12
  /-- Item 2. -/
  idle_clear : s.link.st = .idle → s.link.n = 0 ∧ s.link.esc = false ∧ s.link.ovf = false
  /-- Item 3. -/
  esc_inFrame : s.link.esc = true → s.link.st = .inFrame
  /-- Item 4. -/
  ovf_full : s.link.ovf = true → s.link.st = .inFrame ∧ s.link.n = 12
  /-- Item 5. -/
  stopped_idle : s.link.running = false → s.link.st = .idle
  /-- Item 6. -/
  reg_le : ∀ m, s.cfg.lmax = some m → s.link.reg.length ≤ m
  /-- R18: "listener identifiers `lid`, each `Cfg.LW` bits". -/
  lid_lt : ∀ l ∈ s.link.reg, l < 2 ^ s.cfg.lw

/-- The BUS words waiting are words of `LW + 1` bits (R61); every other port's width is its type's. -/
def State.PortsInRange (s : State) : Prop :=
  ∀ w ∈ s.inp.bus, w < 2 ^ (s.cfg.lw + 1)

/-- `k` steps, one after the other. -/
def stepN : Nat → State → Host.Outcome State Fault Refusal
  | 0, s => .next s
  | k + 1, s =>
    match step s with
    | .next t => stepN k t
    | .fault r => .fault r
    | .refused r => .refused r

/-- A run: each state is what `step` answers to the one before. -/
def IsRun (σ : Nat → State) : Prop :=
  ∀ k, step (σ k) = .next (σ (k + 1))

/-- R40: "an operation that stays presented is eventually accepted", for the requests that could be accepted. -/
def WeaklyFair (σ : Nat → State) : Prop :=
  ∀ p k, (∀ j, k ≤ j → portReady (σ j) p = true) → ∃ j, k ≤ j ∧ granted (σ j) = some p

/-- Only the receive stream has something to accept, and no delivery is stuck. -/
structure State.OnlyRx (s : State) : Prop where
  running : s.link.running = true
  send : s.inp.send = []
  func : s.inp.func = []
  bus : s.inp.bus = []
  ctl : s.inp.ctl = []
  rst : s.inp.rst = 0
  unstuck : s.stuck = none

/-- The parts of the state an operation can write. -/
inductive Part where
  | st
  | esc
  | n
  | ovf
  | buf
  | reg
  | running
  | tx
  | delivered
  | sendResp
  | busAcc
  | encoded
  | encOut
  | labels
  | chanOk
  | stall
  | stuck
deriving DecidableEq, Repr

/-- What each operation may write: the lines "State written", "Flags written" and the outputs of its rule. -/
def writes : Instr → List Part
  | .rxbIdleDelim => [.st, .n, .esc, .ovf]
  | .rxbIdleEsc => [.labels]
  | .rxbIdleOther _ => [.labels]
  | .rxbInframeDelim => [.st, .n, .ovf, .reg, .delivered, .stall, .stuck, .labels]
  | .rxbInframeEsc => [.esc]
  | .rxbInframeData _ => [.buf, .n]
  | .rxbInframeOverflow _ => [.ovf, .labels]
  | .rxbAfterescSubd => [.esc, .buf, .n, .ovf, .labels]
  | .rxbAfterescSube => [.esc, .buf, .n, .ovf, .labels]
  | .rxbAfterescInvalid _ => [.esc, .labels]
  | .encByteDelim => [.encOut]
  | .encByteEsc => [.encOut]
  | .encBytePlain _ => [.encOut]
  | .encFrame _ => [.encOut]
  | .encode _ => [.encoded]
  | .send _ => [.tx, .sendResp, .labels, .chanOk]
  | .register _ => [.reg, .busAcc]
  | .remove _ => [.reg, .busAcc]
  | .dispatchDrain _ => [.reg, .delivered, .stall, .stuck]
  | .dispatchPersist _ => [.delivered, .stall, .stuck]
  | .deliver _ _ => [.delivered, .stall, .stuck]
  | .start => [.running, .st, .esc, .n, .ovf]
  | .stop => [.running, .st, .esc, .n, .ovf]
  | .reset => [.st, .esc, .n, .ovf, .buf, .reg, .running]

/-- A part has the same value in two states. -/
def Part.same (s t : State) : Part → Prop
  | .st => t.link.st = s.link.st
  | .esc => t.link.esc = s.link.esc
  | .n => t.link.n = s.link.n
  | .ovf => t.link.ovf = s.link.ovf
  | .buf => t.link.buf = s.link.buf
  | .reg => t.link.reg = s.link.reg
  | .running => t.link.running = s.link.running
  | .tx => t.out.tx = s.out.tx
  | .delivered => t.out.delivered = s.out.delivered
  | .sendResp => t.out.sendResp = s.out.sendResp
  | .busAcc => t.out.busAcc = s.out.busAcc
  | .encoded => t.out.encoded = s.out.encoded
  | .encOut => t.out.encOut = s.out.encOut
  | .labels => t.out.labels = s.out.labels
  | .chanOk => t.inp.chanOk = s.inp.chanOk
  | .stall => t.inp.stall = s.inp.stall
  | .stuck => t.stuck = s.stuck

/-- Two states that differ at most in bytes of the collect buffer not yet collected, "A byte of `buf` at index `i >= n`
holds no defined value" (R11). -/
def SameButUncollected (s t : State) : Prop :=
  t = { s with link.buf := t.link.buf } ∧ ∀ (k : Nat) (h : k < 12), k < s.link.n → t.link.buf[k] = s.link.buf[k]

/-- R96's notion of a well-formed stream of whole encoded frames. -/
def streamOf (c : Cfg) (fs : List Frame) : List Byte := fs.flatMap (encodeFrame c)

/-- The next `m` deliveries complete (spec/93_implementation_defined.md U10 leaves it to the listeners). -/
def ListenersComplete (s : State) (m : Nat) : Prop := ∀ k, s.inp.stall = some k → m ≤ k

/-- How many of the deliveries to `reg` complete: all, or those before a listener that never completes its own. -/
def served (s : State) (reg : List Nat) : Nat :=
  match s.inp.stall with
  | none => reg.length
  | some k => min k reg.length

/-- The delivery that a dispatch of `f` to `reg` gets stuck in, or the one already stuck. -/
def stuckAfter (f : Frame) (reg : List Nat) (s : State) : Option Delivery :=
  match reg[served s reg]? with
  | some l => some ⟨l, f⟩
  | none => s.stuck

/-- What a dispatch that invoked `m + 1` listeners, or all, leaves of the registry (R102, R103). -/
def afterInvoking (c : Cfg) (reg : List Nat) (m : Nat) : List Nat := if c.persist then reg else reg.drop (m + 1)

/-- What a completed dispatch leaves of the registry (R102, R103). -/
def afterDispatch (c : Cfg) (reg : List Nat) : List Nat := if c.persist then reg else []

/-- The deliveries of one dispatch: one per entry, in registry order (R105). -/
def deliveriesOf (reg : List Nat) (f : Frame) : List Delivery := reg.map fun l => ⟨l, f⟩

end Sys2Proof.Machine
end

