-- ==== Sys2Proof/Certificates/Slice0/Obligations.lean ====
section
/-! DEFINITION. What is claimed of the block, from the numbered rules of spec/. Each statement is about every
configuration, since a state holds its own. -/

open Sys2Proof Sys2Proof.Machine

/-! ## Encoding -/

/-- Request words written out from R55 (RX), R53 (TXENC), R61 (BUS), R63 (CTL) and R60 (SEND, FUNC), at the default
reserved values, read as the operations of the tables. -/
def Obligations.WordsOfTheTablesDecodeToTheirOperations : Prop :=
  decode .default ⟨.idle, false, 0⟩ ⟨.rx, 0b11000000⟩ = .ok .rxbIdleDelim ∧
  decode .default ⟨.idle, false, 0⟩ ⟨.rx, 0b11011011⟩ = .ok .rxbIdleEsc ∧
  decode .default ⟨.inFrame, false, 11⟩ ⟨.rx, 0b11011100⟩ = .ok (.rxbInframeData 0xDC) ∧
  decode .default ⟨.inFrame, false, 12⟩ ⟨.rx, 0b11000000⟩ = .ok .rxbInframeDelim ∧
  decode .default ⟨.inFrame, true, 3⟩ ⟨.rx, 0b11011100⟩ = .ok .rxbAfterescSubd ∧
  decode .default ⟨.inFrame, true, 3⟩ ⟨.rx, 0b11000000⟩ = .ok (.rxbAfterescInvalid 0xC0) ∧
  decode .default ⟨.idle, false, 0⟩ ⟨.txByte, 0b11011011⟩ = .ok .encByteEsc ∧
  decode .default ⟨.idle, false, 0⟩ ⟨.bus, 0b000000010⟩ = .ok (.register 1) ∧
  decode .default ⟨.idle, false, 0⟩ ⟨.bus, 0b000000011⟩ = .ok (.remove 1) ∧
  decode .default ⟨.idle, false, 0⟩ ⟨.ctl, 0b1⟩ = .ok .start ∧
  decode .default ⟨.idle, false, 0⟩ ⟨.ctl, 0b0⟩ = .ok .stop ∧
  decode .default ⟨.idle, false, 0⟩ ⟨.send, 0xFF0000000000DBC000000002⟩ =
    .ok (.send #v[0x02, 0, 0, 0, 0xC0, 0xDB, 0, 0, 0, 0, 0, 0xFF])

/-- Decoding the word of any operation, in any context where its row applies, gives the operation back: no bit of an
encoding of R53, R55 or R58 to R63 is dropped. -/
def Obligations.DecodingAnEncodedOperationGivesItBack : Prop :=
  ∀ (c : Cfg) (x : RxContext) (i : Instr), i.wf c = true → i.applies c x = true →
    decode c x (encode c i) = .ok i

/-- A word that decodes is the word of the operation it decodes to, whose row applies and whose operand is one the row
can carry: at one port and in one context each word has one meaning (R55, R66). -/
def Obligations.EachWordIsTheWordOfItsOperation : Prop :=
  ∀ (c : Cfg) (x : RxContext) (r : Request) (i : Instr), decode c x r = .ok i →
    encode c i = r ∧ i.wf c = true ∧ i.applies c x = true

/-- R60: byte `k` stands at bits `[8k+7 : 8k]` of the request word, so its low 32 bits are the little-endian `id_word`
of R32, and word and Frame determine each other. -/
def Obligations.FrameWordsCarryByteKAtBits8K : Prop :=
  ∀ f : Frame,
    (∀ (k : Nat) (h : k < 12), (BitVec.ofNat 96 (wordOfFrame f)).extractLsb' (8 * k) 8 = f[k]) ∧
    (BitVec.ofNat 96 (wordOfFrame f)).extractLsb' 0 32 = frameIdWord f ∧
    frameOfWord (wordOfFrame f) = f

/-! ## The step -/

/-- One step is the granted request, decoded in the decoder's context and run whole after being taken off its port;
with nothing granted the block waits unchanged (R38, R115, R116; the granularity is the spec's decision D7, log entry
22). -/
def Obligations.StepRunsTheDecodedRequest : Prop :=
  ∀ s : State,
    (granted s = none → step s = .next s) ∧
    (∀ b bs, granted s = some .rx → s.inp.rx = b :: bs →
      step s = exec (decodeRx s.cfg s.context b) (accept .rx s)) ∧
    (∀ w ws, granted s = some .send → s.inp.send = w :: ws →
      step s = exec (.send (frameOfWord w.toNat)) (accept .send s)) ∧
    (∀ w ws, granted s = some .func → s.inp.func = w :: ws →
      step s = exec (.encode (frameOfWord w.toNat)) (accept .func s)) ∧
    (∀ w ws, granted s = some .bus → s.inp.bus = w :: ws → w < 2 ^ (s.cfg.lw + 1) →
      step s = exec (if w % 2 = 0 then .register (w / 2) else .remove (w / 2)) (accept .bus s)) ∧
    (∀ ws, granted s = some .ctl → s.inp.ctl = 1 :: ws → step s = exec .start (accept .ctl s)) ∧
    (∀ ws, granted s = some .ctl → s.inp.ctl = 0 :: ws → step s = exec .stop (accept .ctl s)) ∧
    (granted s = some .rst → step s = exec .reset (accept .rst s))

/-- What a step adds around the operation: accepting a request takes the head of its own port, draws the arbiter's next
choice (any value, log entry 7), and touches nothing else (R37: "accepting a byte from the channel consumes it"). -/
def Obligations.AcceptingTakesOneRequestOffItsPort : Prop :=
  ∀ s : State, ∃ v : Nat,
    accept .rx s =
      { s with inp.rx := s.inp.rx.tail, inp.pick := v, inp.draws := s.inp.draws + 1 } ∧
    accept .send s =
      { s with inp.send := s.inp.send.tail, inp.pick := v, inp.draws := s.inp.draws + 1 } ∧
    accept .func s =
      { s with inp.func := s.inp.func.tail, inp.pick := v, inp.draws := s.inp.draws + 1 } ∧
    accept .bus s =
      { s with inp.bus := s.inp.bus.tail, inp.pick := v, inp.draws := s.inp.draws + 1 } ∧
    accept .ctl s =
      { s with inp.ctl := s.inp.ctl.tail, inp.pick := v, inp.draws := s.inp.draws + 1 } ∧
    accept .rst s =
      { s with inp.rst := s.inp.rst - 1, inp.pick := v, inp.draws := s.inp.draws + 1 }

/-- R115: a byte is taken only while `running = 1`; otherwise it "stays with the channel", and when nothing else is
presented the step changes nothing. A dispatch that is stuck in a delivery is in progress (R42, ruling U10), and a byte
then waits too. While running and not stuck, a presented byte is one the arbiter can take. -/
def Obligations.BytesAreAcceptedOnlyWhileRunning : Prop :=
  ∀ s : State,
    (∀ t, s.link.running = false ∨ s.stuck ≠ none → step s = .next t → t.inp.rx = s.inp.rx) ∧
    (s.link.running = false → (∀ p, p ≠ Port.rx → presented p s = none) → step s = .next s) ∧
    (s.link.running = true → s.stuck = none → s.inp.rx ≠ [] → Port.rx ∈ readyPorts s)

/-- R40: a port is granted only if its request could be accepted, and any such port can be the next one (the spec's
decision D7, log entries 7 and 22). -/
def Obligations.EveryOrderOfReadyPortsIsAdmitted : Prop :=
  ∀ (s : State) (p : Port),
    (granted s = some p → p ∈ readyPorts s) ∧
    (p ∈ readyPorts s → ∃ v : Nat, granted { s with inp.pick := v } = some p)

/-- R40: in a run that is weakly fair, a request that stays presented is accepted, "unless it is an `RXB` and `running =
0`". Weak fairness is the spec's decision D7, a hypothesis here (log entry 7). While a delivery is stuck only a `SEND` is
taken (ruling U10), so the others are claimed of runs in which none is. -/
def Obligations.FairRunsAcceptEveryRequest : Prop :=
  ∀ (σ : Nat → State) (p : Port) (k : Nat), IsRun σ → WeaklyFair σ → presented p (σ k) ≠ none →
    (p = .rx → ∀ j, k ≤ j → (σ j).link.running = true) →
    (p ≠ .send → ∀ j, k ≤ j → (σ j).stuck = none) →
    ∃ j, k ≤ j ∧ granted (σ j) = some p

/-- R87: the step never blocks, faults or refuses, whatever is presented at ports of their widths; and what waits at the
BUS port keeps its width (the widths are the spec's decision D1, log entries 15 and 32). R42 and R164 with ruling U10 of
spec/93_implementation_defined.md: once a listener never completes its delivery, the block is stuck in it, a `SEND` is
taken and nothing else, and there is no time-out. -/
def Obligations.EveryStepAnswersANextState : Prop :=
  ∀ s : State, s.PortsInRange → ∃ t, step s = .next t ∧ t.PortsInRange ∧
    (s.stuck ≠ none →
      granted s = (if s.inp.send = [] then none else some .send) ∧
      t.stuck = s.stuck ∧ t.link = s.link ∧ t.out.delivered = s.out.delivered)

/-! ## The decoder -/

/-- R87: the tests in their order select the one case of a received byte, and of all RX rows with that byte it is the
only one that runs: "Exactly one case applies to every (`LinkState`, `b`)". -/
def Obligations.ExactlyOneCaseRunsForEachByte : Prop :=
  ∀ (s : State) (b : Byte), s.link.running = true →
    ∃ i : Instr,
      i = (if s.link.st = .inFrame ∧ s.link.esc = true then
              if b = s.cfg.subD then .rxbAfterescSubd
              else if b = s.cfg.subE then .rxbAfterescSube
              else .rxbAfterescInvalid b
            else if b = s.cfg.delim then
              if s.link.st = .idle then .rxbIdleDelim else .rxbInframeDelim
            else if b = s.cfg.esc then
              if s.link.st = .idle then .rxbIdleEsc else .rxbInframeEsc
            else
              if s.link.st = .idle then .rxbIdleOther b
              else if s.link.n < 12 then .rxbInframeData b else .rxbInframeOverflow b) ∧
      decode s.cfg s.context ⟨.rx, b.toNat⟩ = .ok i ∧
      (∃ t, exec i s = .next t) ∧
      ∀ j : Instr, j.isRx = true → encode s.cfg j = ⟨.rx, b.toNat⟩ → (∃ t, exec j s = .next t) → j = i

/-- R80: "`st <- InFrame; n <- 0; esc <- 0; ovf <- 0`. `buf` is not cleared." -/
def Obligations.StartDelimiterOpensAFrame : Prop :=
  ∀ s : State, s.link.running = true → s.link.st = .idle →
    exec .rxbIdleDelim s =
      .next { s with link.st := .inFrame, link.n := 0, link.esc := false, link.ovf := false }

/-- R81: a stray `ESC` is ignored and Idle has no escape sub-state (the spec's decision D3, log entry 19). -/
def Obligations.StrayEscChangesNoState : Prop :=
  ∀ s : State, s.link.running = true → s.link.st = .idle →
    exec .rxbIdleEsc s = .next { s with out.labels := s.out.labels ++ [.strayByte s.cfg.esc] }

/-- R82: a stray byte is ignored. -/
def Obligations.StrayByteChangesNoState : Prop :=
  ∀ (s : State) (b : Byte), s.link.running = true → s.link.st = .idle → b ≠ s.cfg.delim → b ≠ s.cfg.esc →
    exec (.rxbIdleOther b) s = .next { s with out.labels := s.out.labels ++ [.strayByte b] }

/-- R83: the closing delimiter hands over a frame of exactly twelve bytes that did not overflow (or may), and discards
every other; the decoder goes to Idle with `n = 0` in both, and the dispatch is that of R102 or R103 from there. The
`ovf` term is the spec's decision D4 (log entry 20). The hand-over is to listeners that complete their deliveries; up to
one that never does, see CompletedFrameIsDispatchedFromIdle and EachEntryIsDeliveredOnce. -/
def Obligations.ClosingDelimiterEmitsOrDiscards : Prop :=
  ∀ s : State, s.link.running = true → s.link.st = .inFrame → s.link.esc = false →
    (s.link.n = 12 ∧ (s.link.ovf = false ∨ s.cfg.longFrameEmits = true) → ListenersComplete s s.link.reg.length →
      exec .rxbInframeDelim s =
        .next { s with link.st := .idle, link.n := 0, link.ovf := false,
                       link.reg := if s.cfg.persist then s.link.reg else [],
                       inp.stall := s.inp.stall.map (· - s.link.reg.length),
                       out.delivered := s.out.delivered ++ s.link.reg.map fun l => ⟨l, s.link.buf⟩ }) ∧
    (¬ (s.link.n = 12 ∧ (s.link.ovf = false ∨ s.cfg.longFrameEmits = true)) →
      exec .rxbInframeDelim s =
        .next { s with link.st := .idle, link.n := 0, link.ovf := false,
                       out.labels := s.out.labels ++ [.frameLength s.link.n s.link.ovf] })

/-- R91: the completed frame is passed to `DISPATCH`, the decoder "already in Idle with `n = 0`", in the same
operation; which closing delimiters complete a frame rests on the spec's decision D4 (log entry 20). -/
def Obligations.CompletedFrameIsDispatchedFromIdle : Prop :=
  ∀ s : State, s.link.running = true → s.link.st = .inFrame → s.link.esc = false → s.link.n = 12 →
    (s.link.ovf = false ∨ s.cfg.longFrameEmits = true) →
    ∃ t, exec .rxbInframeDelim s = .next t ∧
      exec (if s.cfg.persist then .dispatchPersist s.link.buf else .dispatchDrain s.link.buf)
        { s with link.st := .idle, link.n := 0, link.ovf := false } = .next t

/-- R84: "`esc <- 1`. Nothing else changes; the `ESC` byte itself is never stored." A `STOP` or reset before the next
byte clears `esc`. -/
def Obligations.EscapeIntroducerSetsEsc : Prop :=
  ∀ s : State, s.link.running = true → s.link.st = .inFrame → s.link.esc = false →
    exec .rxbInframeEsc s = .next { s with link.esc := true } ∧
    ∀ i : Instr, i = .stop ∨ i = .reset →
      ∃ t, exec i { s with link.esc := true } = .next t ∧ t.link.esc = false

/-- R85: "`buf[n] <- b; n <- n + 1`". -/
def Obligations.DataByteIsAppended : Prop :=
  ∀ (s : State) (b : Byte) (h : s.link.n < 12), s.link.running = true → s.link.st = .inFrame → s.link.esc = false →
    b ≠ s.cfg.delim → b ≠ s.cfg.esc →
    exec (.rxbInframeData b) s =
      .next { s with link.buf := s.link.buf.set s.link.n b h, link.n := s.link.n + 1 }

/-- R86: "`raise Overflow(b); ovf <- 1`. `buf` and `n` are unchanged; the byte is dropped." The flag is the spec's
decision D4 (log entry 20). -/
def Obligations.DataByteBeyondCapacityIsDropped : Prop :=
  ∀ (s : State) (b : Byte), s.link.running = true → s.link.st = .inFrame → s.link.esc = false → s.link.n = 12 →
    b ≠ s.cfg.delim → b ≠ s.cfg.esc →
    exec (.rxbInframeOverflow b) s =
      .next { s with link.ovf := true, out.labels := s.out.labels ++ [.overflow b] }

/-- R88: the escaped delimiter is offered as the data byte `DELIM`; its bound at `n = 12` is the spec's decision D5 (log
entry 21). -/
def Obligations.EscapedDelimiterIsAppended : Prop :=
  ∀ s : State, s.link.running = true → s.link.st = .inFrame → s.link.esc = true →
    (∀ h : s.link.n < 12, exec .rxbAfterescSubd s =
      .next { s with link.esc := false, link.buf := s.link.buf.set s.link.n s.cfg.delim h,
                     link.n := s.link.n + 1 }) ∧
    (s.link.n = 12 → exec .rxbAfterescSubd s =
      .next { s with link.esc := false, link.ovf := true, out.labels := s.out.labels ++ [.overflow s.cfg.delim] })

/-- R89: the escaped ESC is offered as the data byte `ESC`; its bound at `n = 12` is the spec's decision D5 (log entry
21). -/
def Obligations.EscapedEscIsAppended : Prop :=
  ∀ s : State, s.link.running = true → s.link.st = .inFrame → s.link.esc = true →
    (∀ h : s.link.n < 12, exec .rxbAfterescSube s =
      .next { s with link.esc := false, link.buf := s.link.buf.set s.link.n s.cfg.esc h,
                     link.n := s.link.n + 1 }) ∧
    (s.link.n = 12 → exec .rxbAfterescSube s =
      .next { s with link.esc := false, link.ovf := true, out.labels := s.out.labels ++ [.overflow s.cfg.esc] })

/-- R90: "`raise InvalidEscape(b); esc <- 0`. `n`, `buf`, `ovf` and `st` are unchanged", also where `b` is `DELIM` or
`ESC`. -/
def Obligations.InvalidEscapeIsDropped : Prop :=
  ∀ (s : State) (b : Byte), s.link.running = true → s.link.st = .inFrame → s.link.esc = true →
    b ≠ s.cfg.subD → b ≠ s.cfg.subE →
    exec (.rxbAfterescInvalid b) s =
      .next { s with link.esc := false, out.labels := s.out.labels ++ [.invalidEscape b] }

/-! ## The encoder and the send path -/

/-- R53: what each class of data byte leaves the encoder as. -/
def Obligations.EncoderRowsSubstituteReservedBytes : Prop :=
  ∀ s : State,
    exec .encByteDelim s = .next { s with out.encOut := s.out.encOut ++ [s.cfg.esc, s.cfg.subD] } ∧
    exec .encByteEsc s = .next { s with out.encOut := s.out.encOut ++ [s.cfg.esc, s.cfg.subE] } ∧
    (∀ d : Byte, d ≠ s.cfg.delim → d ≠ s.cfg.esc →
      exec (.encBytePlain d) s = .next { s with out.encOut := s.out.encOut ++ [d] })

/-- R50: `DELIM, e(f[0]), …, e(f[11]), DELIM`, with `e` of R53 written out. -/
def Obligations.EncFrameEmitsTheDelimitedEncoding : Prop :=
  ∀ (s : State) (f : Frame),
    exec (.encFrame f) s =
      .next { s with out.encOut := s.out.encOut ++
        (s.cfg.delim ::
          (f.toList.flatMap fun b =>
            if b = s.cfg.delim then [s.cfg.esc, s.cfg.subD]
            else if b = s.cfg.esc then [s.cfg.esc, s.cfg.subE] else [b]) ++ [s.cfg.delim]) }

/-- R70: `ENCODE` returns the same sequence to its caller and touches nothing. -/
def Obligations.EncodeReturnsTheDelimitedEncoding : Prop :=
  ∀ (s : State) (f : Frame),
    exec (.encode f) s =
      .next { s with out.encoded := s.out.encoded ++
        [s.cfg.delim ::
          (f.toList.flatMap fun b =>
            if b = s.cfg.delim then [s.cfg.esc, s.cfg.subD]
            else if b = s.cfg.esc then [s.cfg.esc, s.cfg.subE] else [b]) ++ [s.cfg.delim]] }

/-- R71: `len(enc(f)) = 14 + r(f)`, hence 14 to 26 bytes. -/
def Obligations.EncodedLengthIsFourteenPlusReserved : Prop :=
  ∀ (c : Cfg) (f : Frame),
    (encodeFrame c f).length = 14 + (f.toList.countP fun b => b = c.delim ∨ b = c.esc) ∧
    14 ≤ (encodeFrame c f).length ∧ (encodeFrame c f).length ≤ 26

/-- R74: `DELIM` "at index 0 and at the last index and nowhere else, and every occurrence of `ESC` is immediately followed
by `SUB_D` or `SUB_E`". -/
def Obligations.EncodingEscapesEveryReservedByte : Prop :=
  ∀ (c : Cfg) (f : Frame) (k : Nat),
    ((encodeFrame c f)[k]? = some c.delim ↔ k = 0 ∨ k + 1 = (encodeFrame c f).length) ∧
    ((encodeFrame c f)[k]? = some c.esc →
      (encodeFrame c f)[k + 1]? = some c.subD ∨ (encodeFrame c f)[k + 1]? = some c.subE)

/-- R75: `enc(f) = enc(g)` implies `f = g`. -/
def Obligations.EncodingIsInjective : Prop :=
  ∀ (c : Cfg) (f g : Frame), encodeFrame c f = encodeFrame c g → f = g

/-- R72, R73: with `chan_ok = 1` the burst goes out in one piece and its length is returned; with `chan_ok = 0` not one
byte goes out (the spec's decision D6, log entry 9) and Failure is returned. The channel's next answer is any (log
entry 8). -/
def Obligations.SendWritesTheWholeBurstOrNothing : Prop :=
  ∀ (s : State) (f : Frame),
    (s.inp.chanOk = true → ∃ v : Bool, exec (.send f) s =
      .next { s with out.tx := s.out.tx ++ encodeFrame s.cfg f,
                     out.sendResp := s.out.sendResp ++ [⟨true, BitVec.ofNat 5 (encodeFrame s.cfg f).length⟩],
                     inp.chanOk := v, inp.draws := s.inp.draws + 1 } ∧
      (BitVec.ofNat 5 (encodeFrame s.cfg f).length).toNat = (encodeFrame s.cfg f).length) ∧
    (s.inp.chanOk = false → ∃ v : Bool, exec (.send f) s =
      .next { s with out.sendResp := s.out.sendResp ++ [⟨false, 0⟩],
                     out.labels := s.out.labels ++ [.channelFailure],
                     inp.chanOk := v, inp.draws := s.inp.draws + 1 })

/-- R43: `SEND` and `ENCODE` "read and write no part of `LinkState`": they run in every link state, to the same outputs,
and leave it as it was. -/
def Obligations.SendAndEncodeUseNoLinkState : Prop :=
  ∀ (s : State) (f : Frame) (l : LinkState) (i : Instr), i = .send f ∨ i = .encode f →
    ∃ t, exec i s = .next t ∧ t.link = s.link ∧ exec i { s with link := l } = .next { t with link := l }

/-- R43: the place of a `SEND` or `ENCODE` relative to `RXB`, `REGISTER`, `REMOVE`, `START` or `STOP` changes nothing
but where its label stands among the labels: the same labels are raised, in another order. -/
def Obligations.SendAndEncodeCommuteWithTheLink : Prop :=
  ∀ (s a b : State) (f : Frame) (i j : Instr), i = .send f ∨ i = .encode f →
    (j.isRx = true ∨ (∃ l, j = .register l) ∨ (∃ l, j = .remove l) ∨ j = .start ∨ j = .stop) →
    exec i s = .next a → exec j a = .next b →
    ∃ a' b', exec j s = .next a' ∧ exec i a' = .next b' ∧ b' = { b with out.labels := b'.out.labels } ∧
      b'.out.labels.Perm b.out.labels

/-! ## The registry and dispatch -/

/-- R100: append at the end, `acc = 1`; on a full registry no state change, `acc = 0` (the spec's decision D9, log entry
23). -/
def Obligations.RegisterAppendsUnlessFull : Prop :=
  ∀ (s : State) (lid : Nat), lid < 2 ^ s.cfg.lw →
    ((∀ m, s.cfg.lmax = some m → s.link.reg.length < m) →
      exec (.register lid) s =
        .next { s with link.reg := s.link.reg ++ [lid], out.busAcc := s.out.busAcc ++ [true] }) ∧
    (∀ m, s.cfg.lmax = some m → m ≤ s.link.reg.length →
      exec (.register lid) s = .next { s with out.busAcc := s.out.busAcc ++ [false] })

/-- R101: the entry of least index goes and "the order of the others is kept", `acc = 1`; an absent `lid` is a no-op,
`acc = 0`. That it is one entry and the oldest is the spec's decision D14 (log entry 24). -/
def Obligations.RemoveDeletesTheOldestEntry : Prop :=
  ∀ (s : State) (lid : Nat), lid < 2 ^ s.cfg.lw →
    (∀ older newer, s.link.reg = older ++ lid :: newer → lid ∉ older →
      exec (.remove lid) s =
        .next { s with link.reg := older ++ newer, out.busAcc := s.out.busAcc ++ [true] }) ∧
    (lid ∉ s.link.reg → exec (.remove lid) s = .next { s with out.busAcc := s.out.busAcc ++ [false] })

/-- R102: every entry is delivered to, in registry order, and the registry is left empty. Where the listener at index `k`
never completes its delivery (ruling U10), the loop ends in it: the entries before it have theirs, and it and they have left
the registry, each "the moment it is invoked" (log entry 10). -/
def Obligations.DrainingDispatchEmptiesTheRegistry : Prop :=
  ∀ (s : State) (f : Frame), s.cfg.persist = false →
    (ListenersComplete s s.link.reg.length → exec (.dispatchDrain f) s =
      .next { s with link.reg := [], inp.stall := s.inp.stall.map (· - s.link.reg.length),
                     out.delivered := s.out.delivered ++ s.link.reg.map fun l => ⟨l, f⟩ }) ∧
    (∀ (k : Nat) (h : k < s.link.reg.length), s.inp.stall = some k → exec (.dispatchDrain f) s =
      .next { s with link.reg := s.link.reg.drop (k + 1), inp.stall := some 0, stuck := some ⟨s.link.reg[k], f⟩,
                     out.delivered := s.out.delivered ++ (s.link.reg.take k).map fun l => ⟨l, f⟩ })

/-- R103: every entry is delivered to, in registry order, and the registry is unchanged. Where the listener at index `k`
never completes its delivery (ruling U10, log entry 10), the loop ends in it and the entries before it have theirs. -/
def Obligations.PersistentDispatchKeepsTheRegistry : Prop :=
  ∀ (s : State) (f : Frame), s.cfg.persist = true →
    (ListenersComplete s s.link.reg.length → exec (.dispatchPersist f) s =
      .next { s with inp.stall := s.inp.stall.map (· - s.link.reg.length),
                     out.delivered := s.out.delivered ++ s.link.reg.map fun l => ⟨l, f⟩ }) ∧
    (∀ (k : Nat) (h : k < s.link.reg.length), s.inp.stall = some k → exec (.dispatchPersist f) s =
      .next { s with inp.stall := some 0, stuck := some ⟨s.link.reg[k], f⟩,
                     out.delivered := s.out.delivered ++ (s.link.reg.take k).map fun l => ⟨l, f⟩ })

/-- R62: one transaction with the listener's `lid` and the frame; a listener that never completes it leaves the block
stuck in it (ruling U10, log entry 10). -/
def Obligations.DeliverIsOneTransaction : Prop :=
  ∀ (s : State) (lid : Nat) (f : Frame), lid < 2 ^ s.cfg.lw →
    (s.inp.stall ≠ some 0 → exec (.deliver lid f) s =
      .next { s with out.delivered := s.out.delivered ++ [⟨lid, f⟩], inp.stall := s.inp.stall.map (· - 1) }) ∧
    (s.inp.stall = some 0 → exec (.deliver lid f) s = .next { s with stuck := some ⟨lid, f⟩ })

/-- R105: under either policy a dispatch makes one delivery per registry entry, each of the frame itself; a `lid` that
occurs `k` times receives it `k` times. Where the listener at index `k` never completes its delivery (ruling U10), those
before it have theirs, the block is stuck in that one, and no later one is made; that the draining registry has lost the
entries invoked so far is R102's loop read literally (log entry 10). -/
def Obligations.EachEntryIsDeliveredOnce : Prop :=
  ∀ (s t : State) (f : Frame) (lid : Nat),
    exec (.dispatchDrain f) s = .next t ∨ exec (.dispatchPersist f) s = .next t →
    (ListenersComplete s s.link.reg.length → t.stuck = s.stuck ∧
      ∃ ds, t.out.delivered = s.out.delivered ++ ds ∧ ds.length = s.link.reg.length ∧
        ds.count ⟨lid, f⟩ = s.link.reg.count lid ∧
        ∀ (k : Nat) (h : k < s.link.reg.length), ds[k]? = some ⟨s.link.reg[k], f⟩) ∧
    ∀ (k : Nat) (h : k < s.link.reg.length), s.inp.stall = some k →
      t.stuck = some ⟨s.link.reg[k], f⟩ ∧
      t.out.delivered = s.out.delivered ++ (s.link.reg.take k).map (fun l => ⟨l, f⟩) ∧
      t.link.reg = if s.cfg.persist then s.link.reg else s.link.reg.drop (k + 1)

/-- R107: from an empty registry with room for three, three registrations and one dispatch deliver to the three
listeners in order, once each, under either policy (derived in the spec from R100, R102, R103). -/
def Obligations.ThreeListenersAreInvokedInOrder : Prop :=
  ∀ (s : State) (l1 l2 l3 : Nat) (f : Frame), s.link.reg = [] → ListenersComplete s 3 →
    (∀ m, s.cfg.lmax = some m → 3 ≤ m) →
    l1 < 2 ^ s.cfg.lw → l2 < 2 ^ s.cfg.lw → l3 < 2 ^ s.cfg.lw →
    ∃ s1 s2 s3 t, exec (.register l1) s = .next s1 ∧ exec (.register l2) s1 = .next s2 ∧
      exec (.register l3) s2 = .next s3 ∧
      exec (if s.cfg.persist then .dispatchPersist f else .dispatchDrain f) s3 = .next t ∧
      t.out.delivered = s.out.delivered ++ [⟨l1, f⟩, ⟨l2, f⟩, ⟨l3, f⟩] ∧
      t.link.reg = if s.cfg.persist then [l1, l2, l3] else []

/-- R36, R38, R106: a step delivers a completed frame to the registry as it stands, to all of it or up to a listener that
never completes its delivery (ruling U10, log entry 10), or nothing; only the accepted closing delimiter of a complete
frame delivers, or gets stuck; and the commands waiting at the ports wait on (the spec's decision D7, log entry 22). -/
def Obligations.OnlyACompleteFramesCloseDelivers : Prop :=
  ∀ s t : State, step s = .next t → t.out.delivered ≠ s.out.delivered ∨ t.stuck ≠ s.stuck →
    s.stuck = none ∧ granted s = some .rx ∧ s.inp.rx.head? = some s.cfg.delim ∧
    s.link.st = .inFrame ∧ s.link.esc = false ∧
    s.link.n = 12 ∧ (s.link.ovf = false ∨ s.cfg.longFrameEmits = true) ∧
    t.out.delivered = s.out.delivered ++ deliveriesOf (s.link.reg.take (served s s.link.reg)) s.link.buf ∧
    t.link.reg = afterInvoking s.cfg s.link.reg (served s s.link.reg) ∧
    t.stuck = stuckAfter s.link.buf s.link.reg s ∧
    t.inp.bus = s.inp.bus ∧ t.inp.ctl = s.inp.ctl ∧ t.inp.rst = s.inp.rst

/-! ## Link control and reset -/

/-- R117: `START` sets `running` and clears the decoder; "if running = 1: no effect" (the spec's decision D12, log entry
25). -/
def Obligations.StartRunsTheLink : Prop :=
  ∀ s : State,
    (s.link.running = false → exec .start s =
      .next { s with link.running := true, link.st := .idle, link.esc := false, link.n := 0, link.ovf := false }) ∧
    (s.link.running = true → exec .start s = .next s)

/-- R118: `STOP` clears `running` and the decoder; "if running = 0: no effect" (the spec's decisions D12 and D13, log
entry 25). -/
def Obligations.StopEndsTheLink : Prop :=
  ∀ s : State,
    (s.link.running = true → exec .stop s =
      .next { s with link.running := false, link.st := .idle, link.esc := false, link.n := 0, link.ovf := false }) ∧
    (s.link.running = false → exec .stop s = .next s)

/-- R155: the values of R26 (the spec's decisions D12 and D13, log entry 25), `buf` any (log entry 5), `Cfg` and the
outputs made before unchanged. That the requests waiting at the ports stand is the model's reading (log entry 26). -/
def Obligations.ResetInstallsTheInitialValues : Prop :=
  ∀ s : State, ∃ any : Frame, exec .reset s =
    .next { s with link := ⟨.idle, false, 0, false, any, [], false⟩, inp.draws := s.inp.draws + 1 }

/-- R26: the state after reset, of any configuration (the spec's decisions D12 and D13, log entry 25); `buf` is left
out (log entry 4). -/
def Obligations.StateAfterResetHasTheTabledValues : Prop :=
  ∀ c : Cfg, ∃ any : Frame,
    (State.resetWith c).link = ⟨.idle, false, 0, false, any, [], false⟩ ∧ (State.resetWith c).cfg = c

/-! ## Where operations run, and what they leave alone -/

/-- Every operation answers a next state exactly where its row of the table applies with an operand it can carry (R66) and,
for a received byte, while running; elsewhere it is refused by name (the model's choice, log entry 14). R115 accepts a
byte only if no dispatch and no pause (timing only, log entry 11) is in progress either. The dispatch is the arbiter's to
see to (`portReady`): exec is what an operation does once taken, also in a state with a stuck delivery, in which step
takes none but a `SEND` (the model's choice, log entry 10; EveryStepAnswersANextState). -/
def Obligations.OperationsRunExactlyWhereTheirRowApplies : Prop :=
  ∀ (i : Instr) (s : State),
    ((∃ t, exec i s = .next t) ↔
      (i.isRx = true → s.link.running = true) ∧ i.wf s.cfg = true ∧ i.applies s.cfg s.context = true) ∧
    ((∃ t, exec i s = .next t) ∨ exec i s = .refused .rowNotSelected)

/-- The frame of all operations: `Cfg` never changes (R24, the spec's decision D11), nor do the requests waiting at the
ports, which are the environment's (R23), and a part of the state that the operation's rule does not name as written keeps
its value. That `RESET` too leaves the waiting requests and the environment's `stall` is the model's reading (log entry
26), and that it leaves a stuck delivery is ruling U10 read literally (log entry 10). -/
def Obligations.OperationsChangeOnlyWhatTheirRuleWrites : Prop :=
  ∀ (i : Instr) (s t : State), exec i s = .next t →
    t.cfg = s.cfg ∧
    t.inp = { s.inp with chanOk := t.inp.chanOk, stall := t.inp.stall, draws := t.inp.draws } ∧
    ∀ p : Part, p ∉ writes i → p.same s t

/-- R12: how the count moves, and that it never passes 12. -/
def Obligations.CountMovesByOneAppendOrToZero : Prop :=
  ∀ (i : Instr) (s t : State), s.Inv → exec i s = .next t →
    t.link.n ≤ 12 ∧
    (i = .rxbIdleDelim ∨ i = .rxbInframeDelim ∨ i = .stop ∨ i = .reset → t.link.n = 0) ∧
    ((∃ b, i = .rxbInframeData b) ∨ i = .rxbAfterescSubd ∨ i = .rxbAfterescSube →
      t.link.n = if s.link.n < 12 then s.link.n + 1 else s.link.n) ∧
    (t.link.n ≠ s.link.n →
      i = .rxbIdleDelim ∨ i = .rxbInframeDelim ∨ i = .stop ∨ i = .reset ∨
      (∃ b, i = .rxbInframeData b) ∨ i = .rxbAfterescSubd ∨ i = .rxbAfterescSube)

/-- R11: `buf[i]` "is written only by the three append transitions of the decoder, always at index `i = n` with `n <
12`" (and by `RESET`, which leaves it unspecified). -/
def Obligations.BufferIsWrittenOnlyAtTheCount : Prop :=
  ∀ (i : Instr) (s t : State), exec i s = .next t → i ≠ .reset →
    ∀ (k : Nat) (h : k < 12), t.link.buf[k] ≠ s.link.buf[k] →
      k = s.link.n ∧ ((∃ b, i = .rxbInframeData b) ∨ i = .rxbAfterescSubd ∨ i = .rxbAfterescSube)

/-! ## Invariants and unobservable values -/

/-- R21's six items hold after reset, for every configuration. -/
def Obligations.InvariantHoldsAfterReset : Prop :=
  ∀ c : Cfg, (State.resetWith c).Inv

/-- R21's six items, and the width of a registry entry, are kept by every step from any state that has them. -/
def Obligations.InvariantIsKeptByEveryStep : Prop :=
  ∀ s t : State, s.Inv → step s = .next t → t.Inv

/-- R11: no observation depends on bytes not collected in the frame: from two states that differ only there, one step
gives two states that differ only there, with the same outputs. -/
def Obligations.UncollectedBytesAreUnobservable : Prop :=
  ∀ s s' t : State, SameButUncollected s s' → step s = .next t →
    ∃ t', step s' = .next t' ∧ SameButUncollected t t'

/-- R130: a label "writes no state, drives no port": a step does the same whatever labels were raised before. -/
def Obligations.LabelsAreUnobservable : Prop :=
  ∀ (s t : State) (ls : List Event), step s = .next t →
    ∃ ls', step { s with out.labels := ls } = .next { t with out.labels := ls' }

/-- R137: one operation raises at most one event. -/
def Obligations.AtMostOneEventPerOperation : Prop :=
  ∀ (i : Instr) (s t : State), exec i s = .next t →
    t.out.labels = s.out.labels ∨ ∃ e, t.out.labels = s.out.labels ++ [e]

/-! ## Streams -/

/-- R93: fed the bytes of `enc(f)` from Idle, the decoder dispatches `f` once, on the last byte, and is back in Idle
with `n = 0`. The listeners complete their deliveries. -/
def Obligations.DecoderRecoversAnEncodedFrame : Prop :=
  ∀ (s : State) (f : Frame) (rest : List Byte), s.OnlyRx → s.link.st = .idle →
    s.inp.rx = encodeFrame s.cfg f ++ rest → ListenersComplete s s.link.reg.length →
    (∀ k, k < (encodeFrame s.cfg f).length →
      ∃ u, stepN k s = .next u ∧ u.out.delivered = s.out.delivered ∧ u.link.reg = s.link.reg) ∧
    ∃ t, stepN (encodeFrame s.cfg f).length s = .next t ∧
      t.out.delivered = s.out.delivered ++ deliveriesOf s.link.reg f ∧
      t.link.reg = afterDispatch s.cfg s.link.reg ∧
      t.link.st = .idle ∧ t.link.n = 0 ∧ t.link.esc = false ∧ t.link.ovf = false ∧
      t.inp.rx = rest ∧ t.out.labels = s.out.labels ∧ t.cfg = s.cfg ∧ t.OnlyRx

/-- R94: `enc(f1)`, stray bytes, `enc(f2)` from Idle dispatches `f1` and then `f2`. The listeners complete their
deliveries. -/
def Obligations.BackToBackFramesAreBothDispatched : Prop :=
  ∀ (s : State) (f1 f2 : Frame) (gap rest : List Byte), s.OnlyRx → s.link.st = .idle → s.cfg.delim ∉ gap →
    s.inp.rx = encodeFrame s.cfg f1 ++ gap ++ encodeFrame s.cfg f2 ++ rest →
    ListenersComplete s (s.link.reg.length + (afterDispatch s.cfg s.link.reg).length) →
    ∃ t, stepN (encodeFrame s.cfg f1 ++ gap ++ encodeFrame s.cfg f2).length s = .next t ∧
      t.out.delivered = s.out.delivered ++ deliveriesOf s.link.reg f1 ++
        deliveriesOf (afterDispatch s.cfg s.link.reg) f2 ∧
      t.link.reg = afterDispatch s.cfg s.link.reg ∧ t.link.st = .idle ∧ t.link.n = 0 ∧ t.inp.rx = rest

/-- R95: from Idle, bytes none of which is `DELIM` leave the link state unchanged and dispatch nothing. -/
def Obligations.StrayBytesNeverLeaveIdle : Prop :=
  ∀ (s : State) (bs rest : List Byte), s.OnlyRx → s.link.st = .idle → s.cfg.delim ∉ bs → s.inp.rx = bs ++ rest →
    ∃ t, stepN bs.length s = .next t ∧ t.link = s.link ∧ t.out.delivered = s.out.delivered ∧ t.inp.rx = rest

/-- R96: a decoder that is InFrame when a well-formed stream of whole frames begins stays out of phase for as long as
the stream lasts: nothing is dispatched and it is InFrame again at the end. -/
def Obligations.InvertedPhaseLosesEveryFrame : Prop :=
  ∀ (s : State) (fs : List Frame) (rest : List Byte), s.OnlyRx → s.link.st = .inFrame → s.link.esc = false →
    s.link.n < 12 → s.inp.rx = streamOf s.cfg fs ++ rest →
    ∃ t, stepN (streamOf s.cfg fs).length s = .next t ∧ t.link.st = .inFrame ∧ t.link.esc = false ∧
      t.link.n < 12 ∧ t.out.delivered = s.out.delivered ∧ t.link.reg = s.link.reg ∧ t.inp.rx = rest

/-- R96: outside AfterEscape an accepted `DELIM` moves Idle to InFrame and InFrame to Idle; in AfterEscape it moves
neither. -/
def Obligations.DelimitersToggleOutsideAfterEscape : Prop :=
  ∀ (s : State) (bs : List Byte), s.OnlyRx → s.inp.rx = s.cfg.delim :: bs →
    ∃ t, step s = .next t ∧ t.inp.rx = bs ∧
      (s.link.st = .idle → t.link.st = .inFrame) ∧
      (s.link.st = .inFrame → s.link.esc = false → t.link.st = .idle) ∧
      (s.link.st = .inFrame → s.link.esc = true → t.link.st = .inFrame ∧ t.link.n = s.link.n)

/-- R97: from Idle, `DELIM`, fewer than 12 data bytes (counted after unescaping), `DELIM` dispatches nothing and ends in
Idle. -/
def Obligations.PartialFrameIsDiscarded : Prop :=
  ∀ (s : State) (ds rest : List Byte), s.OnlyRx → s.link.st = .idle → ds.length < 12 →
    s.inp.rx = s.cfg.delim :: (escapeBytes s.cfg ds ++ s.cfg.delim :: rest) →
    ∃ t, stepN ((escapeBytes s.cfg ds).length + 2) s = .next t ∧ t.link.st = .idle ∧ t.link.n = 0 ∧
      t.link.esc = false ∧ t.link.ovf = false ∧ t.link.reg = s.link.reg ∧ t.out.delivered = s.out.delivered ∧
      t.inp.rx = rest

/-- R98, resting on the spec's decisions D4 and D5 (log entries 20 and 21): from Idle, `DELIM`, more than 12 data bytes,
`DELIM`: `buf` holds the first twelve, the decoder ends in Idle with `n = 0` and `ovf = 0`, and nothing is dispatched, or
the first twelve bytes if `LONG_FRAME_EMITS`, to listeners that complete their deliveries; `n` never exceeded 12. -/
def Obligations.OverlongFrameIsRejectedSafely : Prop :=
  ∀ (s : State) (ds rest : List Byte), s.OnlyRx → s.link.st = .idle → s.link.n ≤ 12 → 12 < ds.length →
    s.inp.rx = s.cfg.delim :: (escapeBytes s.cfg ds ++ s.cfg.delim :: rest) →
    (∀ k, k ≤ (escapeBytes s.cfg ds).length + 2 → ∃ u, stepN k s = .next u ∧ u.link.n ≤ 12) ∧
    ∃ t, stepN ((escapeBytes s.cfg ds).length + 2) s = .next t ∧ t.link.st = .idle ∧ t.link.n = 0 ∧
      t.link.ovf = false ∧ t.link.buf.toList = ds.take 12 ∧ t.inp.rx = rest ∧
      (s.cfg.longFrameEmits = false → t.out.delivered = s.out.delivered ∧ t.link.reg = s.link.reg) ∧
      (s.cfg.longFrameEmits = true → ListenersComplete s s.link.reg.length →
        t.out.delivered = s.out.delivered ++ deliveriesOf s.link.reg t.link.buf ∧
        t.link.reg = afterDispatch s.cfg s.link.reg) ∧
      t.cfg = s.cfg ∧ t.out = { s.out with delivered := t.out.delivered, labels := t.out.labels }

/-- R72, R93, R158: two instances with the same four reserved values joined by a wire: what one sends, the other, in
Idle, delivers to its registry, the listeners there completing their deliveries. -/
def Obligations.LoopbackDeliversTheSentFrame : Prop :=
  ∀ (a a' b : State) (f : Frame) (burst rest : List Byte),
    a.cfg.delim = b.cfg.delim → a.cfg.esc = b.cfg.esc → a.cfg.subD = b.cfg.subD → a.cfg.subE = b.cfg.subE →
    a.inp.chanOk = true → exec (.send f) a = .next a' → a'.out.tx = a.out.tx ++ burst →
    b.OnlyRx → b.link.st = .idle → b.inp.rx = burst ++ rest → ListenersComplete b b.link.reg.length →
    ∃ b', stepN burst.length b = .next b' ∧
      b'.out.delivered = b.out.delivered ++ deliveriesOf b.link.reg f ∧ b'.link.st = .idle ∧ b'.inp.rx = rest
end

