-- ==== Sys2Proof/Laws/Decode.lean ====
section
/-! SUPPORT. Frames and words are two spellings of one value (spec/30_encoding.md R60). -/

namespace Sys2Proof

theorem wordOfBytes_lt (bs : List Byte) : wordOfBytes bs < 256 ^ bs.length := by
  induction bs with
  | nil => simp [wordOfBytes]
  | cons b bs ih =>
    have := b.isLt
    simp only [wordOfBytes, List.length_cons, pow_succ]
    omega

theorem bytesOfWord_wordOfBytes (bs : List Byte) : bytesOfWord bs.length (wordOfBytes bs) = bs := by
  induction bs with
  | nil => rfl
  | cons b bs ih =>
    have := b.isLt
    have hd : (b.toNat + 256 * wordOfBytes bs) / 256 = wordOfBytes bs := by omega
    have hb : BitVec.ofNat 8 (b.toNat + 256 * wordOfBytes bs) = b := by
      apply BitVec.eq_of_toNat_eq
      simp only [BitVec.toNat_ofNat]
      omega
    simp only [wordOfBytes, List.length_cons, bytesOfWord, hd, hb, ih]

theorem wordOfBytes_bytesOfWord (k w : Nat) : wordOfBytes (bytesOfWord k w) = w % 256 ^ k := by
  induction k generalizing w with
  | zero => simp [wordOfBytes, bytesOfWord, Nat.mod_one]
  | succ k ih =>
    have hk : 256 ^ (k + 1) = 256 * 256 ^ k := pow_succ' 256 k
    simp only [bytesOfWord, wordOfBytes, ih, BitVec.toNat_ofNat]
    rw [hk, Nat.mod_mul]

@[simp] theorem frameOfWord_toList (w : Nat) : (frameOfWord w).toList = bytesOfWord 12 w := rfl

theorem wordOfFrame_lt (f : Frame) : wordOfFrame f < 2 ^ 96 := by
  have := wordOfBytes_lt f.toList
  simpa [wordOfFrame, Vector.length_toList] using this

@[simp] theorem frameOfWord_wordOfFrame (f : Frame) : frameOfWord (wordOfFrame f) = f := by
  apply Vector.toList_inj.mp
  have := bytesOfWord_wordOfBytes f.toList
  simpa [wordOfFrame, Vector.length_toList] using this

theorem wordOfFrame_frameOfWord (w : Nat) : wordOfFrame (frameOfWord w) = w % 2 ^ 96 := by
  have h : (256 : Nat) ^ 12 = 2 ^ 96 := by decide
  simp only [wordOfFrame, frameOfWord_toList, wordOfBytes_bytesOfWord, h]

/-- Only a word's low 96 bits reach its Frame. -/
theorem frameOfWord_mod (w : Nat) : frameOfWord (w % 2 ^ 96) = frameOfWord w := by
  rw [← wordOfFrame_frameOfWord, frameOfWord_wordOfFrame]


/-! ## The selection of a received byte's row (R55, R87) -/

/-- "the three contexts partition the states" (R66). -/
theorem RxContext.cases (x : RxContext) :
    (x.isIdle = true ∧ x.isInFrame = false ∧ x.isAfterEscape = false) ∨
    (x.isIdle = false ∧ x.isInFrame = true ∧ x.isAfterEscape = false) ∨
    (x.isIdle = false ∧ x.isInFrame = false ∧ x.isAfterEscape = true) := by
  obtain ⟨st, esc, n⟩ := x
  cases st <;> cases esc <;> simp [RxContext.isIdle, RxContext.isInFrame, RxContext.isAfterEscape]

/-- What R87 selects is a row of RX, for that very byte, whose context and operand fit. -/
theorem decodeRx_spec (c : Cfg) (x : RxContext) (b : Byte) :
    (decodeRx c x b).isRx = true ∧ encode c (decodeRx c x b) = rxRequest b ∧
    (decodeRx c x b).wf c = true ∧ (decodeRx c x b).applies c x = true := by
  unfold decodeRx
  obtain ⟨hi, hf, ha⟩ | ⟨hi, hf, ha⟩ | ⟨hi, hf, ha⟩ := x.cases <;> simp only [hi, ha] <;> repeat' split
  all_goals
    simp_all [Instr.isRx, encode, rxRequest, Instr.wf, Instr.applies, plainByte, isReserved, invalidSubstitute]

/-- An RX row whose context and operand fit is what R87 selects for its byte. -/
theorem decodeRx_of_applies {c : Cfg} {x : RxContext} {i : Instr} {b : Byte} (hr : i.isRx = true)
    (he : encode c i = rxRequest b) (hw : i.wf c = true) (ha : i.applies c x = true) : decodeRx c x b = i := by
  obtain ⟨d1, d2, d3, d4, d5, d6⟩ := c.distinct
  have hb : ∀ a : Byte, rxRequest a = rxRequest b → a = b := fun a h =>
    BitVec.eq_of_toNat_eq (by simpa [rxRequest] using h)
  cases i <;> simp only [Instr.isRx, Bool.false_eq_true] at hr <;> simp only [encode] at he <;>
    have hab := hb _ he <;> subst hab <;> unfold decodeRx <;>
    obtain ⟨hi, hf, hs⟩ | ⟨hi, hf, hs⟩ | ⟨hi, hf, hs⟩ := x.cases <;>
    simp_all [Instr.wf, Instr.applies, plainByte, isReserved, invalidSubstitute, d1.symm, d6.symm]

end Sys2Proof
end

