-- ==== Sys2Proof/Laws/State.lean ====
section
/-! SUPPORT. One lemma per part of the state and update, true by `rfl`: no later proof unfolds a record update. -/

namespace Sys2Proof.Machine

/-! ## Outputs -/

@[simp] theorem raiseEvent_cfg (e : Event) (s : State) : (raiseEvent e s).cfg = s.cfg := rfl
@[simp] theorem raiseEvent_link (e : Event) (s : State) : (raiseEvent e s).link = s.link := rfl
@[simp] theorem raiseEvent_inp (e : Event) (s : State) : (raiseEvent e s).inp = s.inp := rfl
@[simp] theorem raiseEvent_stuck (e : Event) (s : State) : (raiseEvent e s).stuck = s.stuck := rfl
@[simp] theorem raiseEvent_tx (e : Event) (s : State) : (raiseEvent e s).out.tx = s.out.tx := rfl
@[simp] theorem raiseEvent_delivered (e : Event) (s : State) : (raiseEvent e s).out.delivered = s.out.delivered := rfl
@[simp] theorem raiseEvent_sendResp (e : Event) (s : State) : (raiseEvent e s).out.sendResp = s.out.sendResp := rfl
@[simp] theorem raiseEvent_busAcc (e : Event) (s : State) : (raiseEvent e s).out.busAcc = s.out.busAcc := rfl
@[simp] theorem raiseEvent_encoded (e : Event) (s : State) : (raiseEvent e s).out.encoded = s.out.encoded := rfl
@[simp] theorem raiseEvent_encOut (e : Event) (s : State) : (raiseEvent e s).out.encOut = s.out.encOut := rfl
@[simp] theorem raiseEvent_labels (e : Event) (s : State) : (raiseEvent e s).out.labels = s.out.labels ++ [e] := rfl

@[simp] theorem txEmit_cfg (bs : List Byte) (s : State) : (txEmit bs s).cfg = s.cfg := rfl
@[simp] theorem txEmit_link (bs : List Byte) (s : State) : (txEmit bs s).link = s.link := rfl
@[simp] theorem txEmit_inp (bs : List Byte) (s : State) : (txEmit bs s).inp = s.inp := rfl
@[simp] theorem txEmit_stuck (bs : List Byte) (s : State) : (txEmit bs s).stuck = s.stuck := rfl
@[simp] theorem txEmit_tx (bs : List Byte) (s : State) : (txEmit bs s).out.tx = s.out.tx ++ bs := rfl
@[simp] theorem txEmit_delivered (bs : List Byte) (s : State) : (txEmit bs s).out.delivered = s.out.delivered := rfl
@[simp] theorem txEmit_sendResp (bs : List Byte) (s : State) : (txEmit bs s).out.sendResp = s.out.sendResp := rfl
@[simp] theorem txEmit_busAcc (bs : List Byte) (s : State) : (txEmit bs s).out.busAcc = s.out.busAcc := rfl
@[simp] theorem txEmit_encoded (bs : List Byte) (s : State) : (txEmit bs s).out.encoded = s.out.encoded := rfl
@[simp] theorem txEmit_encOut (bs : List Byte) (s : State) : (txEmit bs s).out.encOut = s.out.encOut := rfl
@[simp] theorem txEmit_labels (bs : List Byte) (s : State) : (txEmit bs s).out.labels = s.out.labels := rfl

@[simp] theorem respondSend_cfg (ok : Bool) (k : Nat) (s : State) : (respondSend ok k s).cfg = s.cfg := rfl
@[simp] theorem respondSend_link (ok : Bool) (k : Nat) (s : State) : (respondSend ok k s).link = s.link := rfl
@[simp] theorem respondSend_inp (ok : Bool) (k : Nat) (s : State) : (respondSend ok k s).inp = s.inp := rfl
@[simp] theorem respondSend_stuck (ok : Bool) (k : Nat) (s : State) : (respondSend ok k s).stuck = s.stuck := rfl
@[simp] theorem respondSend_tx (ok : Bool) (k : Nat) (s : State) : (respondSend ok k s).out.tx = s.out.tx := rfl
@[simp] theorem respondSend_delivered (ok : Bool) (k : Nat) (s : State) : (respondSend ok k s).out.delivered = s.out.delivered := rfl
@[simp] theorem respondSend_sendResp (ok : Bool) (k : Nat) (s : State) : (respondSend ok k s).out.sendResp = s.out.sendResp ++ [⟨ok, BitVec.ofNat 5 k⟩] := rfl
@[simp] theorem respondSend_busAcc (ok : Bool) (k : Nat) (s : State) : (respondSend ok k s).out.busAcc = s.out.busAcc := rfl
@[simp] theorem respondSend_encoded (ok : Bool) (k : Nat) (s : State) : (respondSend ok k s).out.encoded = s.out.encoded := rfl
@[simp] theorem respondSend_encOut (ok : Bool) (k : Nat) (s : State) : (respondSend ok k s).out.encOut = s.out.encOut := rfl
@[simp] theorem respondSend_labels (ok : Bool) (k : Nat) (s : State) : (respondSend ok k s).out.labels = s.out.labels := rfl

@[simp] theorem respondBus_cfg (acc : Bool) (s : State) : (respondBus acc s).cfg = s.cfg := rfl
@[simp] theorem respondBus_link (acc : Bool) (s : State) : (respondBus acc s).link = s.link := rfl
@[simp] theorem respondBus_inp (acc : Bool) (s : State) : (respondBus acc s).inp = s.inp := rfl
@[simp] theorem respondBus_stuck (acc : Bool) (s : State) : (respondBus acc s).stuck = s.stuck := rfl
@[simp] theorem respondBus_tx (acc : Bool) (s : State) : (respondBus acc s).out.tx = s.out.tx := rfl
@[simp] theorem respondBus_delivered (acc : Bool) (s : State) : (respondBus acc s).out.delivered = s.out.delivered := rfl
@[simp] theorem respondBus_sendResp (acc : Bool) (s : State) : (respondBus acc s).out.sendResp = s.out.sendResp := rfl
@[simp] theorem respondBus_busAcc (acc : Bool) (s : State) : (respondBus acc s).out.busAcc = s.out.busAcc ++ [acc] := rfl
@[simp] theorem respondBus_encoded (acc : Bool) (s : State) : (respondBus acc s).out.encoded = s.out.encoded := rfl
@[simp] theorem respondBus_encOut (acc : Bool) (s : State) : (respondBus acc s).out.encOut = s.out.encOut := rfl
@[simp] theorem respondBus_labels (acc : Bool) (s : State) : (respondBus acc s).out.labels = s.out.labels := rfl

@[simp] theorem returnEncoding_cfg (bs : List Byte) (s : State) : (returnEncoding bs s).cfg = s.cfg := rfl
@[simp] theorem returnEncoding_link (bs : List Byte) (s : State) : (returnEncoding bs s).link = s.link := rfl
@[simp] theorem returnEncoding_inp (bs : List Byte) (s : State) : (returnEncoding bs s).inp = s.inp := rfl
@[simp] theorem returnEncoding_stuck (bs : List Byte) (s : State) : (returnEncoding bs s).stuck = s.stuck := rfl
@[simp] theorem returnEncoding_tx (bs : List Byte) (s : State) : (returnEncoding bs s).out.tx = s.out.tx := rfl
@[simp] theorem returnEncoding_delivered (bs : List Byte) (s : State) : (returnEncoding bs s).out.delivered = s.out.delivered := rfl
@[simp] theorem returnEncoding_sendResp (bs : List Byte) (s : State) : (returnEncoding bs s).out.sendResp = s.out.sendResp := rfl
@[simp] theorem returnEncoding_busAcc (bs : List Byte) (s : State) : (returnEncoding bs s).out.busAcc = s.out.busAcc := rfl
@[simp] theorem returnEncoding_encoded (bs : List Byte) (s : State) : (returnEncoding bs s).out.encoded = s.out.encoded ++ [bs] := rfl
@[simp] theorem returnEncoding_encOut (bs : List Byte) (s : State) : (returnEncoding bs s).out.encOut = s.out.encOut := rfl
@[simp] theorem returnEncoding_labels (bs : List Byte) (s : State) : (returnEncoding bs s).out.labels = s.out.labels := rfl

@[simp] theorem emitEncoder_cfg (bs : List Byte) (s : State) : (emitEncoder bs s).cfg = s.cfg := rfl
@[simp] theorem emitEncoder_link (bs : List Byte) (s : State) : (emitEncoder bs s).link = s.link := rfl
@[simp] theorem emitEncoder_inp (bs : List Byte) (s : State) : (emitEncoder bs s).inp = s.inp := rfl
@[simp] theorem emitEncoder_stuck (bs : List Byte) (s : State) : (emitEncoder bs s).stuck = s.stuck := rfl
@[simp] theorem emitEncoder_tx (bs : List Byte) (s : State) : (emitEncoder bs s).out.tx = s.out.tx := rfl
@[simp] theorem emitEncoder_delivered (bs : List Byte) (s : State) : (emitEncoder bs s).out.delivered = s.out.delivered := rfl
@[simp] theorem emitEncoder_sendResp (bs : List Byte) (s : State) : (emitEncoder bs s).out.sendResp = s.out.sendResp := rfl
@[simp] theorem emitEncoder_busAcc (bs : List Byte) (s : State) : (emitEncoder bs s).out.busAcc = s.out.busAcc := rfl
@[simp] theorem emitEncoder_encoded (bs : List Byte) (s : State) : (emitEncoder bs s).out.encoded = s.out.encoded := rfl
@[simp] theorem emitEncoder_encOut (bs : List Byte) (s : State) : (emitEncoder bs s).out.encOut = s.out.encOut ++ bs := rfl
@[simp] theorem emitEncoder_labels (bs : List Byte) (s : State) : (emitEncoder bs s).out.labels = s.out.labels := rfl

/-! ## One delivery -/

@[simp] theorem deliverFrame_cfg (l : Nat) (f : Frame) (s : State) : (deliverFrame l f s).cfg = s.cfg := by
  unfold deliverFrame; split <;> rfl
@[simp] theorem deliverFrame_link (l : Nat) (f : Frame) (s : State) : (deliverFrame l f s).link = s.link := by
  unfold deliverFrame; split <;> rfl
@[simp] theorem deliverFrame_rx (l : Nat) (f : Frame) (s : State) : (deliverFrame l f s).inp.rx = s.inp.rx := by
  unfold deliverFrame; split <;> rfl
@[simp] theorem deliverFrame_send (l : Nat) (f : Frame) (s : State) : (deliverFrame l f s).inp.send = s.inp.send := by
  unfold deliverFrame; split <;> rfl
@[simp] theorem deliverFrame_func (l : Nat) (f : Frame) (s : State) : (deliverFrame l f s).inp.func = s.inp.func := by
  unfold deliverFrame; split <;> rfl
@[simp] theorem deliverFrame_bus (l : Nat) (f : Frame) (s : State) : (deliverFrame l f s).inp.bus = s.inp.bus := by
  unfold deliverFrame; split <;> rfl
@[simp] theorem deliverFrame_ctl (l : Nat) (f : Frame) (s : State) : (deliverFrame l f s).inp.ctl = s.inp.ctl := by
  unfold deliverFrame; split <;> rfl
@[simp] theorem deliverFrame_rst (l : Nat) (f : Frame) (s : State) : (deliverFrame l f s).inp.rst = s.inp.rst := by
  unfold deliverFrame; split <;> rfl
@[simp] theorem deliverFrame_pick (l : Nat) (f : Frame) (s : State) : (deliverFrame l f s).inp.pick = s.inp.pick := by
  unfold deliverFrame; split <;> rfl
@[simp] theorem deliverFrame_chanOk (l : Nat) (f : Frame) (s : State) : (deliverFrame l f s).inp.chanOk = s.inp.chanOk := by
  unfold deliverFrame; split <;> rfl
@[simp] theorem deliverFrame_draws (l : Nat) (f : Frame) (s : State) : (deliverFrame l f s).inp.draws = s.inp.draws := by
  unfold deliverFrame; split <;> rfl
@[simp] theorem deliverFrame_env (l : Nat) (f : Frame) (s : State) : (deliverFrame l f s).inp.env = s.inp.env := by
  unfold deliverFrame; split <;> rfl
@[simp] theorem deliverFrame_tx (l : Nat) (f : Frame) (s : State) : (deliverFrame l f s).out.tx = s.out.tx := by
  unfold deliverFrame; split <;> rfl
@[simp] theorem deliverFrame_sendResp (l : Nat) (f : Frame) (s : State) : (deliverFrame l f s).out.sendResp = s.out.sendResp := by
  unfold deliverFrame; split <;> rfl
@[simp] theorem deliverFrame_busAcc (l : Nat) (f : Frame) (s : State) : (deliverFrame l f s).out.busAcc = s.out.busAcc := by
  unfold deliverFrame; split <;> rfl
@[simp] theorem deliverFrame_encoded (l : Nat) (f : Frame) (s : State) : (deliverFrame l f s).out.encoded = s.out.encoded := by
  unfold deliverFrame; split <;> rfl
@[simp] theorem deliverFrame_encOut (l : Nat) (f : Frame) (s : State) : (deliverFrame l f s).out.encOut = s.out.encOut := by
  unfold deliverFrame; split <;> rfl
@[simp] theorem deliverFrame_labels (l : Nat) (f : Frame) (s : State) : (deliverFrame l f s).out.labels = s.out.labels := by
  unfold deliverFrame; split <;> rfl

theorem deliverFrame_completes {s : State} (h : s.inp.stall ≠ some 0) (l : Nat) (f : Frame) :
    deliverFrame l f s =
      { s with out.delivered := s.out.delivered ++ [⟨l, f⟩], inp.stall := s.inp.stall.map (· - 1) } := by
  obtain ⟨_, _, ⟨_, _, _, _, _, _, _, _, st, _, _⟩, _, _⟩ := s
  match st with
  | none => rfl
  | some 0 => exact absurd rfl h
  | some (k + 1) => rfl

theorem deliverFrame_stalls {s : State} (h : s.inp.stall = some 0) (l : Nat) (f : Frame) :
    deliverFrame l f s = { s with stuck := some ⟨l, f⟩ } := by
  simp [deliverFrame, h]

/-! ## The link state -/

@[simp] theorem enterState_cfg (d : DecoderState) (s : State) : (enterState d s).cfg = s.cfg := rfl
@[simp] theorem enterState_inp (d : DecoderState) (s : State) : (enterState d s).inp = s.inp := rfl
@[simp] theorem enterState_out (d : DecoderState) (s : State) : (enterState d s).out = s.out := rfl
@[simp] theorem enterState_stuck (d : DecoderState) (s : State) : (enterState d s).stuck = s.stuck := rfl
@[simp] theorem enterState_st (d : DecoderState) (s : State) : (enterState d s).link.st = d := rfl
@[simp] theorem enterState_esc (d : DecoderState) (s : State) : (enterState d s).link.esc = false := rfl
@[simp] theorem enterState_n (d : DecoderState) (s : State) : (enterState d s).link.n = 0 := rfl
@[simp] theorem enterState_ovf (d : DecoderState) (s : State) : (enterState d s).link.ovf = false := rfl
@[simp] theorem enterState_buf (d : DecoderState) (s : State) : (enterState d s).link.buf = s.link.buf := rfl
@[simp] theorem enterState_reg (d : DecoderState) (s : State) : (enterState d s).link.reg = s.link.reg := rfl
@[simp] theorem enterState_running (d : DecoderState) (s : State) : (enterState d s).link.running = s.link.running := rfl

@[simp] theorem setEsc_cfg (v : Bool) (s : State) : (setEsc v s).cfg = s.cfg := rfl
@[simp] theorem setEsc_inp (v : Bool) (s : State) : (setEsc v s).inp = s.inp := rfl
@[simp] theorem setEsc_out (v : Bool) (s : State) : (setEsc v s).out = s.out := rfl
@[simp] theorem setEsc_stuck (v : Bool) (s : State) : (setEsc v s).stuck = s.stuck := rfl
@[simp] theorem setEsc_st (v : Bool) (s : State) : (setEsc v s).link.st = s.link.st := rfl
@[simp] theorem setEsc_esc (v : Bool) (s : State) : (setEsc v s).link.esc = v := rfl
@[simp] theorem setEsc_n (v : Bool) (s : State) : (setEsc v s).link.n = s.link.n := rfl
@[simp] theorem setEsc_ovf (v : Bool) (s : State) : (setEsc v s).link.ovf = s.link.ovf := rfl
@[simp] theorem setEsc_buf (v : Bool) (s : State) : (setEsc v s).link.buf = s.link.buf := rfl
@[simp] theorem setEsc_reg (v : Bool) (s : State) : (setEsc v s).link.reg = s.link.reg := rfl
@[simp] theorem setEsc_running (v : Bool) (s : State) : (setEsc v s).link.running = s.link.running := rfl

@[simp] theorem setRunning_cfg (v : Bool) (s : State) : (setRunning v s).cfg = s.cfg := rfl
@[simp] theorem setRunning_inp (v : Bool) (s : State) : (setRunning v s).inp = s.inp := rfl
@[simp] theorem setRunning_out (v : Bool) (s : State) : (setRunning v s).out = s.out := rfl
@[simp] theorem setRunning_stuck (v : Bool) (s : State) : (setRunning v s).stuck = s.stuck := rfl
@[simp] theorem setRunning_st (v : Bool) (s : State) : (setRunning v s).link.st = s.link.st := rfl
@[simp] theorem setRunning_esc (v : Bool) (s : State) : (setRunning v s).link.esc = s.link.esc := rfl
@[simp] theorem setRunning_n (v : Bool) (s : State) : (setRunning v s).link.n = s.link.n := rfl
@[simp] theorem setRunning_ovf (v : Bool) (s : State) : (setRunning v s).link.ovf = s.link.ovf := rfl
@[simp] theorem setRunning_buf (v : Bool) (s : State) : (setRunning v s).link.buf = s.link.buf := rfl
@[simp] theorem setRunning_reg (v : Bool) (s : State) : (setRunning v s).link.reg = s.link.reg := rfl
@[simp] theorem setRunning_running (v : Bool) (s : State) : (setRunning v s).link.running = v := rfl

@[simp] theorem setRegistry_cfg (r : List Nat) (s : State) : (setRegistry r s).cfg = s.cfg := rfl
@[simp] theorem setRegistry_inp (r : List Nat) (s : State) : (setRegistry r s).inp = s.inp := rfl
@[simp] theorem setRegistry_out (r : List Nat) (s : State) : (setRegistry r s).out = s.out := rfl
@[simp] theorem setRegistry_stuck (r : List Nat) (s : State) : (setRegistry r s).stuck = s.stuck := rfl
@[simp] theorem setRegistry_st (r : List Nat) (s : State) : (setRegistry r s).link.st = s.link.st := rfl
@[simp] theorem setRegistry_esc (r : List Nat) (s : State) : (setRegistry r s).link.esc = s.link.esc := rfl
@[simp] theorem setRegistry_n (r : List Nat) (s : State) : (setRegistry r s).link.n = s.link.n := rfl
@[simp] theorem setRegistry_ovf (r : List Nat) (s : State) : (setRegistry r s).link.ovf = s.link.ovf := rfl
@[simp] theorem setRegistry_buf (r : List Nat) (s : State) : (setRegistry r s).link.buf = s.link.buf := rfl
@[simp] theorem setRegistry_reg (r : List Nat) (s : State) : (setRegistry r s).link.reg = r := rfl
@[simp] theorem setRegistry_running (r : List Nat) (s : State) : (setRegistry r s).link.running = s.link.running := rfl

/-! ## Free values and acceptance -/

@[simp] theorem drawChanOk_cfg (s : State) : (drawChanOk s).cfg = s.cfg := rfl
@[simp] theorem drawChanOk_stuck (s : State) : (drawChanOk s).stuck = s.stuck := rfl
@[simp] theorem drawChanOk_link (s : State) : (drawChanOk s).link = s.link := rfl
@[simp] theorem drawChanOk_out (s : State) : (drawChanOk s).out = s.out := rfl
@[simp] theorem drawChanOk_rx (s : State) : (drawChanOk s).inp.rx = s.inp.rx := rfl
@[simp] theorem drawChanOk_send (s : State) : (drawChanOk s).inp.send = s.inp.send := rfl
@[simp] theorem drawChanOk_func (s : State) : (drawChanOk s).inp.func = s.inp.func := rfl
@[simp] theorem drawChanOk_bus (s : State) : (drawChanOk s).inp.bus = s.inp.bus := rfl
@[simp] theorem drawChanOk_ctl (s : State) : (drawChanOk s).inp.ctl = s.inp.ctl := rfl
@[simp] theorem drawChanOk_rst (s : State) : (drawChanOk s).inp.rst = s.inp.rst := rfl
@[simp] theorem drawChanOk_pick (s : State) : (drawChanOk s).inp.pick = s.inp.pick := rfl
@[simp] theorem drawChanOk_stall (s : State) : (drawChanOk s).inp.stall = s.inp.stall := rfl
@[simp] theorem drawChanOk_env (s : State) : (drawChanOk s).inp.env = s.inp.env := rfl

@[simp] theorem drawBuf_cfg (s : State) : (drawBuf s).cfg = s.cfg := rfl
@[simp] theorem drawBuf_stuck (s : State) : (drawBuf s).stuck = s.stuck := rfl
@[simp] theorem drawBuf_rx (s : State) : (drawBuf s).inp.rx = s.inp.rx := rfl
@[simp] theorem drawBuf_send (s : State) : (drawBuf s).inp.send = s.inp.send := rfl
@[simp] theorem drawBuf_func (s : State) : (drawBuf s).inp.func = s.inp.func := rfl
@[simp] theorem drawBuf_bus (s : State) : (drawBuf s).inp.bus = s.inp.bus := rfl
@[simp] theorem drawBuf_ctl (s : State) : (drawBuf s).inp.ctl = s.inp.ctl := rfl
@[simp] theorem drawBuf_rst (s : State) : (drawBuf s).inp.rst = s.inp.rst := rfl
@[simp] theorem drawBuf_pick (s : State) : (drawBuf s).inp.pick = s.inp.pick := rfl
@[simp] theorem drawBuf_chanOk (s : State) : (drawBuf s).inp.chanOk = s.inp.chanOk := rfl
@[simp] theorem drawBuf_stall (s : State) : (drawBuf s).inp.stall = s.inp.stall := rfl
@[simp] theorem drawBuf_env (s : State) : (drawBuf s).inp.env = s.inp.env := rfl
@[simp] theorem drawBuf_out (s : State) : (drawBuf s).out = s.out := rfl
@[simp] theorem drawBuf_st (s : State) : (drawBuf s).link.st = s.link.st := rfl
@[simp] theorem drawBuf_esc (s : State) : (drawBuf s).link.esc = s.link.esc := rfl
@[simp] theorem drawBuf_n (s : State) : (drawBuf s).link.n = s.link.n := rfl
@[simp] theorem drawBuf_ovf (s : State) : (drawBuf s).link.ovf = s.link.ovf := rfl
@[simp] theorem drawBuf_reg (s : State) : (drawBuf s).link.reg = s.link.reg := rfl
@[simp] theorem drawBuf_running (s : State) : (drawBuf s).link.running = s.link.running := rfl

@[simp] theorem drawPick_cfg (s : State) : (drawPick s).cfg = s.cfg := rfl
@[simp] theorem drawPick_stuck (s : State) : (drawPick s).stuck = s.stuck := rfl
@[simp] theorem drawPick_link (s : State) : (drawPick s).link = s.link := rfl
@[simp] theorem drawPick_out (s : State) : (drawPick s).out = s.out := rfl
@[simp] theorem drawPick_rx (s : State) : (drawPick s).inp.rx = s.inp.rx := rfl
@[simp] theorem drawPick_send (s : State) : (drawPick s).inp.send = s.inp.send := rfl
@[simp] theorem drawPick_func (s : State) : (drawPick s).inp.func = s.inp.func := rfl
@[simp] theorem drawPick_bus (s : State) : (drawPick s).inp.bus = s.inp.bus := rfl
@[simp] theorem drawPick_ctl (s : State) : (drawPick s).inp.ctl = s.inp.ctl := rfl
@[simp] theorem drawPick_rst (s : State) : (drawPick s).inp.rst = s.inp.rst := rfl
@[simp] theorem drawPick_chanOk (s : State) : (drawPick s).inp.chanOk = s.inp.chanOk := rfl
@[simp] theorem drawPick_stall (s : State) : (drawPick s).inp.stall = s.inp.stall := rfl
@[simp] theorem drawPick_env (s : State) : (drawPick s).inp.env = s.inp.env := rfl

@[simp] theorem takeRequest_cfg (p : Port) (s : State) : (takeRequest p s).cfg = s.cfg := by cases p <;> rfl
@[simp] theorem takeRequest_link (p : Port) (s : State) : (takeRequest p s).link = s.link := by cases p <;> rfl
@[simp] theorem takeRequest_out (p : Port) (s : State) : (takeRequest p s).out = s.out := by cases p <;> rfl
@[simp] theorem takeRequest_stuck (p : Port) (s : State) : (takeRequest p s).stuck = s.stuck := by cases p <;> rfl

@[simp] theorem accept_cfg (p : Port) (s : State) : (accept p s).cfg = s.cfg := by simp [accept]
@[simp] theorem accept_link (p : Port) (s : State) : (accept p s).link = s.link := by simp [accept]
@[simp] theorem accept_out (p : Port) (s : State) : (accept p s).out = s.out := by simp [accept]
@[simp] theorem accept_stuck (p : Port) (s : State) : (accept p s).stuck = s.stuck := by simp [accept]
@[simp] theorem accept_context (p : Port) (s : State) : (accept p s).context = s.context := by simp [State.context]

/-! ## Offering a byte -/

theorem offerByte_room {s : State} (h : s.link.n < 12) (v : Byte) :
    offerByte v s = { s with link.buf := s.link.buf.set s.link.n v h, link.n := s.link.n + 1 } := by
  simp [offerByte, h]

theorem offerByte_full {s : State} (h : ¬ s.link.n < 12) (v : Byte) :
    offerByte v s = raiseEvent (.overflow v) { s with link.ovf := true } := by
  simp [offerByte, h, ovfAfterOffer, hasRoom]

end Sys2Proof.Machine
end

