-- ==== Sys2Proof/Laws/Ops.lean ====
section
/-! SUPPORT. What each shared operation can do, said once: the provers cite these and unfold none of them. -/

namespace Sys2Proof.Machine

/-! ## Rows -/

theorem onRow_eq_next {i : Instr} {s t : State} (hw : i.wf s.cfg = true) (ha : i.applies s.cfg s.context = true) :
    onRow i s t = .next t := by
  simp [onRow, hw, ha]

theorem onRow_next_iff {i : Instr} {s t u : State} :
    onRow i s t = .next u ↔ i.wf s.cfg = true ∧ i.applies s.cfg s.context = true ∧ t = u := by
  unfold onRow
  split <;> simp_all

theorem onRxRow_eq_next {i : Instr} {s t : State} (hr : s.link.running = true) (hw : i.wf s.cfg = true)
    (ha : i.applies s.cfg s.context = true) : onRxRow i s t = .next t := by
  simp [onRxRow, hr, onRow_eq_next hw ha]

theorem onRxRow_next_iff {i : Instr} {s t u : State} :
    onRxRow i s t = .next u ↔
      s.link.running = true ∧ i.wf s.cfg = true ∧ i.applies s.cfg s.context = true ∧ t = u := by
  unfold onRxRow
  split <;> simp_all [onRow_next_iff]

/-! ## Dispatch -/

theorem served_complete {s : State} {ls : List Nat} (h : ListenersComplete s ls.length) : served s ls = ls.length := by
  unfold served
  cases hs : s.inp.stall with
  | none => rfl
  | some k => exact Nat.min_eq_right (h k hs)

theorem stuckAfter_complete {s : State} {ls : List Nat} (h : ListenersComplete s ls.length) (f : Frame) :
    stuckAfter f ls s = s.stuck := by
  simp [stuckAfter, served_complete h]

/-- R102's loop in one line. -/
theorem drainTo_eq (f : Frame) (ls : List Nat) (s : State) :
    drainTo f ls s =
      { s with link.reg := ls.drop (served s ls + 1),
               out.delivered := s.out.delivered ++ deliveriesOf (ls.take (served s ls)) f,
               inp.stall := s.inp.stall.map (· - ls.length), stuck := stuckAfter f ls s } := by
  induction ls generalizing s with
  | nil => simp [drainTo, deliveriesOf, stuckAfter, setRegistry]
  | cons l ls ih =>
    obtain ⟨_, _, ⟨_, _, _, _, _, _, _, _, st, _, _⟩, _, _⟩ := s
    match st with
    | none => simp [drainTo, ih, nextStalls, deliverFrame, deliveriesOf, stuckAfter, served, setRegistry]
    | some 0 => simp [drainTo, nextStalls, deliverFrame, deliveriesOf, stuckAfter, served, setRegistry]
    | some (k + 1) =>
      have hm : min (k + 1) (ls.length + 1) = min k ls.length + 1 := by omega
      simp [drainTo, ih, nextStalls, deliverFrame, deliveriesOf, stuckAfter, served, hm, setRegistry]

/-- R103's loop in one line. -/
theorem deliverAll_eq (f : Frame) (ls : List Nat) (s : State) :
    deliverAll f ls s =
      { s with out.delivered := s.out.delivered ++ deliveriesOf (ls.take (served s ls)) f,
               inp.stall := s.inp.stall.map (· - ls.length), stuck := stuckAfter f ls s } := by
  induction ls generalizing s with
  | nil => simp [deliverAll, deliveriesOf, stuckAfter]
  | cons l ls ih =>
    obtain ⟨_, _, ⟨_, _, _, _, _, _, _, _, st, _, _⟩, _, _⟩ := s
    match st with
    | none => simp [deliverAll, ih, nextStalls, deliverFrame, deliveriesOf, stuckAfter, served]
    | some 0 => simp [deliverAll, nextStalls, deliverFrame, deliveriesOf, stuckAfter, served]
    | some (k + 1) =>
      have hm : min (k + 1) (ls.length + 1) = min k ls.length + 1 := by omega
      simp [deliverAll, ih, nextStalls, deliverFrame, deliveriesOf, stuckAfter, served, hm]

/-- `DISPATCH` in one line: one delivery per entry up to a listener that never completes, and the registry as the policy
leaves it (R102, R103, R105, spec/93_implementation_defined.md U10). -/
theorem dispatch_eq (f : Frame) (s : State) :
    dispatch f s =
      { s with link.reg := afterInvoking s.cfg s.link.reg (served s s.link.reg),
               out.delivered := s.out.delivered ++ deliveriesOf (s.link.reg.take (served s s.link.reg)) f,
               inp.stall := s.inp.stall.map (· - s.link.reg.length), stuck := stuckAfter f s.link.reg s } := by
  unfold dispatch afterInvoking
  split <;> simp [deliverAll_eq, drainTo_eq]

/-- A dispatch whose listeners all complete. -/
theorem dispatch_complete {s : State} (h : ListenersComplete s s.link.reg.length) (f : Frame) :
    dispatch f s =
      { s with link.reg := afterDispatch s.cfg s.link.reg,
               out.delivered := s.out.delivered ++ deliveriesOf s.link.reg f,
               inp.stall := s.inp.stall.map (· - s.link.reg.length) } := by
  simp [dispatch_eq, served_complete h, stuckAfter_complete h, afterInvoking, afterDispatch, List.drop_eq_nil_of_le]

/-- A dispatch stuck in the listener at index `k`. -/
theorem dispatch_stalls {s : State} {k : Nat} (h : k < s.link.reg.length) (hs : s.inp.stall = some k) (f : Frame) :
    dispatch f s =
      { s with link.reg := afterInvoking s.cfg s.link.reg k,
               out.delivered := s.out.delivered ++ deliveriesOf (s.link.reg.take k) f,
               inp.stall := some 0, stuck := some ⟨s.link.reg[k], f⟩ } := by
  have hk : served s s.link.reg = k := by simp [served, hs, Nat.le_of_lt h]
  have h0 : k - s.link.reg.length = 0 := by omega
  simp [dispatch_eq, hk, stuckAfter, h, hs, h0]

/-! ## Registry -/

theorem deleteOldest_of_not_mem {lid : Nat} {r : List Nat} (h : lid ∉ r) : deleteOldest lid r = r := by
  induction r with
  | nil => rfl
  | cons l ls ih =>
    simp only [List.mem_cons, not_or] at h
    simp [deleteOldest, Ne.symm h.1, ih h.2]

theorem deleteOldest_append {lid : Nat} {a b : List Nat} (h : lid ∉ a) :
    deleteOldest lid (a ++ lid :: b) = a ++ b := by
  induction a with
  | nil => simp [deleteOldest]
  | cons l ls ih =>
    simp only [List.mem_cons, not_or] at h
    simp [deleteOldest, Ne.symm h.1, ih h.2]

theorem deleteOldest_sublist (lid : Nat) (r : List Nat) : (deleteOldest lid r).Sublist r := by
  induction r with
  | nil => simp [deleteOldest]
  | cons l ls ih =>
    unfold deleteOldest
    split
    · exact List.sublist_cons_self l ls
    · exact ih.cons_cons l

/-! ## Encoding -/

theorem escapeBytes_eq_flatMap (c : Cfg) (bs : List Byte) : escapeBytes c bs = bs.flatMap (escapeByte c) := by
  induction bs with
  | nil => rfl
  | cons b bs ih => simp [escapeBytes, ih]

theorem escapeBytes_append (c : Cfg) (as bs : List Byte) :
    escapeBytes c (as ++ bs) = escapeBytes c as ++ escapeBytes c bs := by
  simp [escapeBytes_eq_flatMap]

theorem escapeBytes_length (c : Cfg) (bs : List Byte) :
    (escapeBytes c bs).length = bs.length + bs.countP (isReserved c) := by
  induction bs with
  | nil => rfl
  | cons b bs ih =>
    have hb : (escapeByte c b).length = 1 + if isReserved c b then 1 else 0 := by
      unfold escapeByte isReserved
      by_cases h1 : b = c.delim <;> by_cases h2 : b = c.esc <;> simp [h1, h2]
      split <;> simp_all
    simp [escapeBytes, ih, hb, List.countP_cons]
    omega

theorem delim_not_mem_escapeBytes (c : Cfg) (bs : List Byte) : c.delim ∉ escapeBytes c bs := by
  induction bs with
  | nil => simp [escapeBytes]
  | cons b bs ih =>
    obtain ⟨h1, h2, h3, -, -, -⟩ := c.distinct
    simp only [escapeBytes, List.mem_append, not_or]
    refine ⟨?_, ih⟩
    unfold escapeByte
    by_cases hd : b = c.delim
    · simp [hd, h1, h2]
    · by_cases he : b = c.esc
      · simp [he, Ne.symm h1, h1, h3]
      · simp [hd, he, Ne.symm hd]

end Sys2Proof.Machine
end

