-- ==== Sys2Proof/Laws/Exec.lean ====
section
/-! SUPPORT. `exec` and `step`, each said once: an operation's effect where its row applies, and what one step can be. -/

namespace Sys2Proof.Machine

/-- The effect of each operation where its row applies. -/
def effect (i : Instr) (s : State) : State :=
  match i with
  | .rxbIdleDelim => enterState .inFrame s
  | .rxbIdleEsc => raiseEvent (.strayByte s.cfg.esc) s
  | .rxbIdleOther b => raiseEvent (.strayByte b) s
  | .rxbInframeDelim => closeFrame s
  | .rxbInframeEsc => setEsc true s
  | .rxbInframeData b => offerByte b s
  | .rxbInframeOverflow b => offerByte b s
  | .rxbAfterescSubd => offerByte s.cfg.delim (setEsc false s)
  | .rxbAfterescSube => offerByte s.cfg.esc (setEsc false s)
  | .rxbAfterescInvalid b => raiseEvent (.invalidEscape b) (setEsc false s)
  | .encByteDelim => emitEncoder [s.cfg.esc, s.cfg.subD] s
  | .encByteEsc => emitEncoder [s.cfg.esc, s.cfg.subE] s
  | .encBytePlain d => emitEncoder [d] s
  | .encFrame f => emitEncoder (encodeFrame s.cfg f) s
  | .encode f => returnEncoding (encodeFrame s.cfg f) s
  | .send f => drawChanOk (sendFrame f s)
  | .register lid => registerListener lid s
  | .remove lid => respondBus (decide (lid ∈ s.link.reg)) (setRegistry (deleteOldest lid s.link.reg) s)
  | .dispatchDrain f => drainTo f s.link.reg s
  | .dispatchPersist f => deliverAll f s.link.reg s
  | .deliver lid f => deliverFrame lid f s
  | .start => if s.link.running then s else enterState .idle (setRunning true s)
  | .stop => if s.link.running then enterState .idle (setRunning false s) else s
  | .reset => drawBuf (enterState .idle (setRunning false (setRegistry [] s)))

/-- Where an operation runs: its row applies, its operand fits, and a byte is accepted only while running. -/
def runsIn (i : Instr) (s : State) : Bool :=
  (!i.isRx || s.link.running) && (i.wf s.cfg && i.applies s.cfg s.context)

theorem onRxRow_runsIn {i : Instr} (h : i.isRx = true) (s t : State) :
    onRxRow i s t = if runsIn i s then .next t else .refused .rowNotSelected := by
  cases hr : s.link.running <;> simp [onRxRow, onRow, runsIn, h, hr]

theorem onRow_runsIn {i : Instr} (h : i.isRx = false) (s t : State) :
    onRow i s t = if runsIn i s then .next t else .refused .rowNotSelected := by
  simp [onRow, runsIn, h]

/-- `exec` in one line. -/
theorem exec_eq (i : Instr) (s : State) :
    exec i s = if runsIn i s then .next (effect i s) else .refused .rowNotSelected := by
  cases i <;>
    simp only [exec, effect,
      execRxbIdleDelim, execRxbIdleEsc, execRxbIdleOther, execRxbInframeDelim, execRxbInframeEsc,
      execRxbInframeData, execRxbInframeOverflow, execRxbAfterescSubd, execRxbAfterescSube,
      execRxbAfterescInvalid, execEncByteDelim, execEncByteEsc, execEncBytePlain, execEncFrame, execEncode, execSend,
      execRegister, execRemove, execDispatchDrain, execDispatchPersist, execDeliver, execStart, execStop, execReset]
  all_goals first
    | (apply onRxRow_runsIn; rfl)
    | (apply onRow_runsIn; rfl)

theorem exec_next_iff {i : Instr} {s t : State} : exec i s = .next t ↔ runsIn i s = true ∧ t = effect i s := by
  rw [exec_eq]
  by_cases h : runsIn i s = true
  · simp only [h, if_true, Host.Outcome.next.injEq, true_and]
    exact eq_comm
  · simp [h]

/-- The parts of `runsIn`. -/
theorem runsIn_iff {i : Instr} {s : State} :
    runsIn i s = true ↔
      (i.isRx = true → s.link.running = true) ∧ i.wf s.cfg = true ∧ i.applies s.cfg s.context = true := by
  unfold runsIn
  cases i.isRx <;> simp

/-- No operation changes the configuration (R24). -/
theorem effect_cfg (i : Instr) (s : State) : (effect i s).cfg = s.cfg := by
  have ho : ∀ (v : Byte) (u : State), (offerByte v u).cfg = u.cfg := by
    intro v u
    unfold offerByte
    split <;> rfl
  cases i <;> simp only [effect, ho, closeFrame, sendFrame, registerListener, drainTo_eq, deliverAll_eq, dispatch_eq]
    <;> repeat' split
  all_goals simp

/-! ## The step -/

theorem step_none {s : State} (h : granted s = none) : step s = .next s := by
  simp [step, h]

theorem step_some {s : State} {p : Port} {i : Instr} (h : granted s = some p) (hf : fetchAt p s = .ok i) :
    step s = exec i (accept p s) := by
  simp [step, h, hf]

/-- What one step can be. -/
theorem step_next_cases {s t : State} (h : step s = .next t) :
    (granted s = none ∧ t = s) ∨
      ∃ p i, granted s = some p ∧ fetchAt p s = .ok i ∧ exec i (accept p s) = .next t := by
  unfold step at h
  cases hg : granted s with
  | none =>
    left
    simp only [hg, Host.Outcome.next.injEq] at h
    exact ⟨rfl, h.symm⟩
  | some p =>
    right
    cases hf : fetchAt p s with
    | ok i => exact ⟨p, i, rfl, hf, by simpa [hg, hf] using h⟩
    | error e => simp [hg, hf] at h

/-- A granted port has a request that could be accepted. -/
theorem granted_mem {s : State} {p : Port} (h : granted s = some p) : p ∈ readyPorts s := by
  unfold granted at h
  generalize readyPorts s = l at h
  match l, h with
  | [q], h => simp_all
  | q :: r :: ps, h => exact List.mem_of_getElem? h

theorem granted_ready {s : State} {p : Port} (h : granted s = some p) : portReady s p = true :=
  (List.mem_filter.mp (granted_mem h)).2

end Sys2Proof.Machine
end

