-- ==== Sys2Proof/Laws/Inv.lean ====
section
/-! SUPPORT. What the shared operations do to the invariants of spec/10_state.md R21. -/

namespace Sys2Proof.Machine

/-- The two outcomes of offering a byte. -/
theorem offerByte_cases (v : Byte) (s : State) :
    (∃ h : s.link.n < 12,
      offerByte v s = { s with link.buf := s.link.buf.set s.link.n v h, link.n := s.link.n + 1 }) ∨
    (¬ s.link.n < 12 ∧ offerByte v s = raiseEvent (.overflow v) { s with link.ovf := true }) := by
  by_cases h : s.link.n < 12
  · exact .inl ⟨h, offerByte_room h v⟩
  · exact .inr ⟨h, offerByte_full h v⟩

/-- The two outcomes of a closing delimiter (R83), the dispatch up to a listener that never completes. -/
theorem closeFrame_eq (s : State) :
    closeFrame s =
      if s.link.n = 12 ∧ (s.link.ovf = false ∨ s.cfg.longFrameEmits = true) then
        { s with link.st := .idle, link.esc := false, link.n := 0, link.ovf := false,
                 link.reg := afterInvoking s.cfg s.link.reg (served s s.link.reg),
                 out.delivered :=
                   s.out.delivered ++ deliveriesOf (s.link.reg.take (served s s.link.reg)) s.link.buf,
                 inp.stall := s.inp.stall.map (· - s.link.reg.length),
                 stuck := stuckAfter s.link.buf s.link.reg s }
      else
        { s with link.st := .idle, link.esc := false, link.n := 0, link.ovf := false,
                 out.labels := s.out.labels ++ [.frameLength s.link.n s.link.ovf] } := by
  unfold closeFrame completesFrame
  simp only [Bool.and_eq_true, decide_eq_true_eq, Bool.or_eq_true, Bool.not_eq_true', dispatch_eq]
  rfl

theorem registryHasRoom_iff (c : Cfg) (r : List Nat) :
    registryHasRoom c r = true ↔ ∀ m, c.lmax = some m → r.length < m := by
  unfold registryHasRoom
  cases c.lmax <;> simp

/-- The invariant is about the configuration and the link state alone. -/
theorem State.Inv.of_link {s t : State} (h : s.Inv) (hc : t.cfg = s.cfg) (hl : t.link = s.link) : t.Inv := by
  obtain ⟨h1, h2, h3, h4, h5, h6, h7⟩ := h
  constructor <;> rw [hl] <;> first | assumption | (rw [hc]; assumption)

/-- A cleared decoder has the invariant, in Idle or while running. -/
theorem State.Inv.of_cleared {s t : State} (h : s.Inv) (hc : t.cfg = s.cfg) (hr : t.link.reg = s.link.reg)
    (hn : t.link.n = 0) (he : t.link.esc = false) (ho : t.link.ovf = false)
    (hst : t.link.running = false → t.link.st = .idle) : t.Inv := by
  refine ⟨by omega, fun _ => ⟨hn, he, ho⟩, by simp [he], by simp [ho], hst, ?_, ?_⟩
  · rw [hc, hr]; exact h.reg_le
  · rw [hc, hr]; exact h.lid_lt

/-- A registry of entries already there, or fewer, keeps the invariant. -/
theorem State.Inv.of_sublist {s t : State} (h : s.Inv) (hc : t.cfg = s.cfg) {r : List Nat}
    (hl : t.link = { s.link with reg := r }) (hr : r.Sublist s.link.reg) : t.Inv := by
  obtain ⟨h1, h2, h3, h4, h5, h6, h7⟩ := h
  refine ⟨?_, ?_, ?_, ?_, ?_, ?_, ?_⟩ <;> rw [hl]
  · exact h1
  · exact h2
  · exact h3
  · exact h4
  · exact h5
  · rw [hc]; exact fun m hm => hr.length_le.trans (h6 m hm)
  · rw [hc]; exact fun l hm => h7 l (hr.subset hm)

/-- Offering a byte inside a frame keeps the invariant. -/
theorem State.Inv.offerByte {s : State} (h : s.Inv) (v : Byte) (hst : s.link.st = .inFrame)
    (hr : s.link.running = true) : (offerByte v s).Inv := by
  obtain ⟨h1, h2, h3, h4, h5, h6, h7⟩ := h
  obtain ⟨hn, e⟩ | ⟨hn, e⟩ := offerByte_cases v s <;> rw [e]
  · refine ⟨?_, by simp [hst], fun _ => hst, ?_, by simp [hr], h6, h7⟩
    · show s.link.n + 1 ≤ 12; omega
    · intro ho; have := (h4 ho).2; omega
  · exact ⟨h1, by simp [hst], fun _ => hst, fun _ => ⟨hst, by simp; omega⟩, by simp [hr], h6, h7⟩

end Sys2Proof.Machine
end

