-- ==== Sys2Proof/Laws/PerInstr.lean ====
section
/-! SUPPORT. A fact per operation, as syntax: its request word fits its port (spec/30_encoding.md R58 to R63). -/

namespace Sys2Proof.Laws.EncodeFits

/-- The word of a well-formed operation has no bit above its port's width. -/
def Statement (i : Instr) : Prop :=
  ∀ c : Cfg, i.wf c = true → (encode c i).word < 2 ^ (encode c i).port.width c

theorem byte_fits (b : Byte) : b.toNat < 2 ^ 8 := b.isLt

theorem rxbIdleDelim : Statement .rxbIdleDelim := fun c _ => byte_fits c.delim
theorem rxbIdleEsc : Statement .rxbIdleEsc := fun c _ => byte_fits c.esc
theorem rxbIdleOther (b : Byte) : Statement (.rxbIdleOther b) := fun _ _ => byte_fits b
theorem rxbInframeDelim : Statement .rxbInframeDelim := fun c _ => byte_fits c.delim
theorem rxbInframeEsc : Statement .rxbInframeEsc := fun c _ => byte_fits c.esc
theorem rxbInframeData (b : Byte) : Statement (.rxbInframeData b) := fun _ _ => byte_fits b
theorem rxbInframeOverflow (b : Byte) : Statement (.rxbInframeOverflow b) := fun _ _ => byte_fits b
theorem rxbAfterescSubd : Statement .rxbAfterescSubd := fun c _ => byte_fits c.subD
theorem rxbAfterescSube : Statement .rxbAfterescSube := fun c _ => byte_fits c.subE
theorem rxbAfterescInvalid (b : Byte) : Statement (.rxbAfterescInvalid b) := fun _ _ => byte_fits b
theorem encByteDelim : Statement .encByteDelim := fun c _ => byte_fits c.delim
theorem encByteEsc : Statement .encByteEsc := fun c _ => byte_fits c.esc
theorem encBytePlain (d : Byte) : Statement (.encBytePlain d) := fun _ _ => byte_fits d
theorem encFrame (f : Frame) : Statement (.encFrame f) := fun _ _ => wordOfFrame_lt f
theorem encode (f : Frame) : Statement (.encode f) := fun _ _ => wordOfFrame_lt f
theorem send (f : Frame) : Statement (.send f) := fun _ _ => wordOfFrame_lt f

theorem register (lid : Nat) : Statement (.register lid) := by
  intro c h
  have hl : lid < 2 ^ c.lw := by simpa [Instr.wf, lidInRange] using h
  show 2 * lid < 2 ^ (c.lw + 1)
  have hp : (2 : Nat) ^ (c.lw + 1) = 2 * 2 ^ c.lw := pow_succ' 2 c.lw
  omega

theorem remove (lid : Nat) : Statement (.remove lid) := by
  intro c h
  have hl : lid < 2 ^ c.lw := by simpa [Instr.wf, lidInRange] using h
  show 2 * lid + 1 < 2 ^ (c.lw + 1)
  have hp : (2 : Nat) ^ (c.lw + 1) = 2 * 2 ^ c.lw := pow_succ' 2 c.lw
  omega

theorem dispatchDrain (f : Frame) : Statement (.dispatchDrain f) := fun _ _ => wordOfFrame_lt f
theorem dispatchPersist (f : Frame) : Statement (.dispatchPersist f) := fun _ _ => wordOfFrame_lt f

theorem deliver (lid : Nat) (f : Frame) : Statement (.deliver lid f) := by
  intro c h
  have hl : lid < 2 ^ c.lw := by simpa [Instr.wf, lidInRange] using h
  have hf := wordOfFrame_lt f
  show wordOfFrame f + 2 ^ 96 * lid < 2 ^ (c.lw + 96)
  have hp : (2 : Nat) ^ (c.lw + 96) = 2 ^ 96 * 2 ^ c.lw := by rw [pow_add, Nat.mul_comm]
  have hm : 2 ^ 96 * (lid + 1) ≤ 2 ^ 96 * 2 ^ c.lw := Nat.mul_le_mul_left _ hl
  omega

theorem start : Statement .start := fun _ _ => by simp [Sys2Proof.encode, Port.width]
theorem stop : Statement .stop := fun _ _ => by simp [Sys2Proof.encode, Port.width]
theorem reset : Statement .reset := fun _ _ => by simp [Sys2Proof.encode, Port.width]

end Sys2Proof.Laws.EncodeFits
end

