-- ==== Sys2Proof/Laws/Stream.lean ====
section
/-! SUPPORT. One step on a received byte where nothing else is presented, and steps in a row. -/

namespace Sys2Proof.Machine

theorem granted_of_onlyRx {s : State} (h : s.OnlyRx) {b : Byte} {bs : List Byte} (hq : s.inp.rx = b :: bs) :
    granted s = some .rx := by
  obtain ⟨h1, h2, h3, h4, h5, h6, h7⟩ := h
  have hr : readyPorts s = [.rx] := by
    simp [readyPorts, inputPorts, portReady, presented, h1, h2, h3, h4, h5, h6, h7, hq]
  simp [granted, hr]

/-- One step is the effect of the row R87 selects for the byte at the head of the receive stream. -/
theorem step_of_onlyRx {s : State} (h : s.OnlyRx) {b : Byte} {bs : List Byte} (hq : s.inp.rx = b :: bs) :
    step s = .next (effect (decodeRx s.cfg s.context b) (accept .rx s)) := by
  have hf : fetchAt .rx s = .ok (decodeRx s.cfg s.context b) := by
    have := b.isLt
    simp [fetchAt, presented, hq, decode, Port.width, decodeFitting]
    omega
  rw [step_some (granted_of_onlyRx h hq) hf, exec_next_iff]
  obtain ⟨-, -, hw, ha⟩ := decodeRx_spec s.cfg s.context b
  exact ⟨runsIn_iff.mpr ⟨fun _ => h.running, hw, ha⟩, rfl⟩

/-- `j` steps and then `k` steps. -/
theorem stepN_add {j k : Nat} {s t : State} (h : stepN j s = .next t) : stepN (j + k) s = stepN k t := by
  induction j generalizing s with
  | zero =>
    simp only [stepN, Host.Outcome.next.injEq] at h
    simp [h]
  | succ j ih =>
    rw [show j + 1 + k = (j + k) + 1 by omega]
    simp only [stepN] at h ⊢
    split at h
    · exact ih h
    · cases h
    · cases h

end Sys2Proof.Machine
end

