-- ==== Sys2Proof/Tests/Slice0.lean ====
section
/-! SUPPORT. Tests with expected values from spec/95_test_vectors.md and the worked examples of the rules, the smoke test of
the well-formedness checks, and a witness for the hypotheses of each statement. -/

open Sys2Proof Sys2Proof.Machine

namespace Sys2Proof.Tests

/-! ## Helpers -/

/-- `01 02 03 04 | 05 06 07 08 09 0A 0B 0C`. -/
def upFrame : Frame := #v[1, 2, 3, 4, 5, 6, 7, 8, 9, 10, 11, 12]

/-- The vectors' `F`: `01 00 00 00 | 10 20 30 40 50 60 70 80`. -/
def frameF : Frame := #v[0x01, 0, 0, 0, 0x10, 0x20, 0x30, 0x40, 0x50, 0x60, 0x70, 0x80]

/-- The vectors' `G`: `02 00 00 00 | C0 DB 00 00 00 00 00 FF`. -/
def frameG : Frame := #v[0x02, 0, 0, 0, 0xC0, 0xDB, 0, 0, 0, 0, 0, 0xFF]

def keeping : Cfg := { Cfg.default with persist := true }
def twoEntries : Cfg := { Cfg.default with lmax := some 2 }
def emitting : Cfg := { Cfg.default with longFrameEmits := true }

/-- A running instance, its buffer holding `upFrame`. -/
def inState (c : Cfg) (st : DecoderState) (esc : Bool) (n : Nat) (ovf : Bool) (reg : List Nat) : State :=
  ⟨c, ⟨st, esc, n, ovf, upFrame, reg, true⟩, .none, .none, none⟩

def idle (reg : List Nat) : State := inState .default .idle false 0 false reg
def inFrame (n : Nat) : State := inState .default .inFrame false n false [1, 2]
def afterEsc (n : Nat) : State := inState .default .inFrame true n false [1, 2]

/-- Bytes waiting at RX. -/
def withRx (s : State) (bs : List Byte) : State := { s with inp.rx := bs }

/-- The delivery after the next `k` is one that its listener never completes. -/
def withStall (k : Nat) (s : State) : State := { s with inp.stall := some k }

/-- Stuck in the delivery of `frameF` to listener 2. -/
def isStuck (s : State) : State := { s with stuck := some ⟨2, frameF⟩ }

/-- The next `k` deliveries complete where the one after them does not. -/
theorem complete_withStall (k : Nat) (s : State) : ListenersComplete (withStall k s) k := by
  intro m h
  cases h
  exact Nat.le_refl k

/-- The link state an operation leaves, without its buffer: `(st, esc, n, ovf, reg, running)`. -/
def linkView (s : State) : DecoderState × Bool × Nat × Bool × List Nat × Bool :=
  (s.link.st, s.link.esc, s.link.n, s.link.ovf, s.link.reg, s.link.running)

/-- The result is a next state with the property. -/
def gives (r : Result State) (p : State → Bool) : Bool :=
  match r with
  | .next t => p t
  | .fault _ => false
  | .refused _ => false

def refuses (r : Result State) : Bool :=
  match r with
  | .next _ => false
  | .fault _ => false
  | .refused x => x == .rowNotSelected

/-! ## Well-formedness: each check refuses an ill-formed term (R5, R6, R18, R55, R66) -/

theorem test_cfg_default_admitted : Cfg.ofValues 0xC0 0xDB 0xDC 0xDD false none 8 0 false = some .default := by decide
theorem test_cfg_delim_esc_refused : Cfg.ofValues 0xC0 0xC0 0xDC 0xDD false none 8 0 false = none := by decide
theorem test_cfg_delim_subD_refused : Cfg.ofValues 0xC0 0xDB 0xC0 0xDD false none 8 0 false = none := by decide
theorem test_cfg_delim_subE_refused : Cfg.ofValues 0xC0 0xDB 0xDC 0xC0 false none 8 0 false = none := by decide
theorem test_cfg_esc_subD_refused : Cfg.ofValues 0xC0 0xDB 0xDB 0xDD false none 8 0 false = none := by decide
theorem test_cfg_esc_subE_refused : Cfg.ofValues 0xC0 0xDB 0xDC 0xDB false none 8 0 false = none := by decide
theorem test_cfg_subD_subE_refused : Cfg.ofValues 0xC0 0xDB 0xDC 0xDC false none 8 0 false = none := by decide
theorem test_cfg_zero_lw_refused : Cfg.ofValues 0xC0 0xDB 0xDC 0xDD false none 0 0 false = none := by decide

theorem test_wf_idleOther_refused :
    (Instr.rxbIdleOther 0xC0).wf .default = false ∧ (Instr.rxbIdleOther 0xDB).wf .default = false ∧
    (Instr.rxbIdleOther 0xDC).wf .default = true := by decide
theorem test_wf_inframeData_refused :
    (Instr.rxbInframeData 0xC0).wf .default = false ∧ (Instr.rxbInframeData 0xDB).wf .default = false ∧
    (Instr.rxbInframeData 0xDD).wf .default = true := by decide
theorem test_wf_inframeOverflow_refused :
    (Instr.rxbInframeOverflow 0xC0).wf .default = false ∧ (Instr.rxbInframeOverflow 0xDB).wf .default = false ∧
    (Instr.rxbInframeOverflow 0x99).wf .default = true := by decide
theorem test_wf_afterescInvalid_refused :
    (Instr.rxbAfterescInvalid 0xDC).wf .default = false ∧ (Instr.rxbAfterescInvalid 0xDD).wf .default = false ∧
    (Instr.rxbAfterescInvalid 0xC0).wf .default = true := by decide
theorem test_wf_encBytePlain_refused :
    (Instr.encBytePlain 0xC0).wf .default = false ∧ (Instr.encBytePlain 0xDB).wf .default = false ∧
    (Instr.encBytePlain 0xDC).wf .default = true := by decide
theorem test_wf_lid_too_wide_refused :
    (Instr.register 256).wf .default = false ∧ (Instr.remove 256).wf .default = false ∧
    (Instr.deliver 256 frameF).wf .default = false ∧ (Instr.register 255).wf .default = true := by decide

/-- A row out of its context, under the other policy, with a higher row's byte, or while stopped, does not run. -/
theorem test_rows_elsewhere_refused :
    refuses (exec .rxbIdleDelim (inFrame 3)) = true ∧
    refuses (exec (.rxbInframeData 1) (inFrame 12)) = true ∧
    refuses (exec (.rxbInframeOverflow 1) (inFrame 11)) = true ∧
    refuses (exec (.rxbIdleOther 0xC0) (idle [])) = true ∧
    refuses (exec (.dispatchPersist frameF) (idle [])) = true ∧
    refuses (exec .rxbIdleDelim { idle [] with link.running := false }) = true := by decide

/-! ## Decoding: every constructor from a word written out of the tables (R53, R55, R60 to R63) -/

theorem test_decode_rx_idle :
    decode .default ⟨.idle, false, 0⟩ ⟨.rx, 0b11000000⟩ = .ok .rxbIdleDelim ∧
    decode .default ⟨.idle, false, 0⟩ ⟨.rx, 0b11011011⟩ = .ok .rxbIdleEsc ∧
    decode .default ⟨.idle, false, 0⟩ ⟨.rx, 0b11011100⟩ = .ok (.rxbIdleOther 0xDC) := by decide
theorem test_decode_rx_inframe :
    decode .default ⟨.inFrame, false, 12⟩ ⟨.rx, 0b11000000⟩ = .ok .rxbInframeDelim ∧
    decode .default ⟨.inFrame, false, 12⟩ ⟨.rx, 0b11011011⟩ = .ok .rxbInframeEsc ∧
    decode .default ⟨.inFrame, false, 11⟩ ⟨.rx, 0b11011101⟩ = .ok (.rxbInframeData 0xDD) ∧
    decode .default ⟨.inFrame, false, 12⟩ ⟨.rx, 0b11011101⟩ = .ok (.rxbInframeOverflow 0xDD) := by decide
theorem test_decode_rx_afteresc :
    decode .default ⟨.inFrame, true, 3⟩ ⟨.rx, 0b11011100⟩ = .ok .rxbAfterescSubd ∧
    decode .default ⟨.inFrame, true, 12⟩ ⟨.rx, 0b11011101⟩ = .ok .rxbAfterescSube ∧
    decode .default ⟨.inFrame, true, 3⟩ ⟨.rx, 0b11000000⟩ = .ok (.rxbAfterescInvalid 0xC0) ∧
    decode .default ⟨.inFrame, true, 3⟩ ⟨.rx, 0b11011011⟩ = .ok (.rxbAfterescInvalid 0xDB) := by decide
theorem test_decode_txByte :
    decode .default ⟨.idle, false, 0⟩ ⟨.txByte, 0b11000000⟩ = .ok .encByteDelim ∧
    decode .default ⟨.idle, false, 0⟩ ⟨.txByte, 0b11011011⟩ = .ok .encByteEsc ∧
    decode .default ⟨.idle, false, 0⟩ ⟨.txByte, 0b11011100⟩ = .ok (.encBytePlain 0xDC) := by decide
/-- Program P1, step 4: `f[95:0] = 0xFF0000000000DBC000000002`. -/
theorem test_decode_frames :
    decode .default ⟨.idle, false, 0⟩ ⟨.send, 0xFF0000000000DBC000000002⟩ = .ok (.send frameG) ∧
    decode .default ⟨.idle, false, 0⟩ ⟨.func, 0xFF0000000000DBC000000002⟩ = .ok (.encode frameG) ∧
    decode .default ⟨.idle, false, 0⟩ ⟨.txFrame, 0xFF0000000000DBC000000002⟩ = .ok (.encFrame frameG) := by decide
theorem test_decode_internal :
    decode .default ⟨.idle, false, 0⟩ ⟨.internal, 0xFF0000000000DBC000000002⟩ = .ok (.dispatchDrain frameG) ∧
    decode keeping ⟨.idle, false, 0⟩ ⟨.internal, 0xFF0000000000DBC000000002⟩ = .ok (.dispatchPersist frameG) := by decide
theorem test_decode_deliver :
    decode .default ⟨.idle, false, 0⟩ ⟨.deliver, 0x07FF0000000000DBC000000002⟩ = .ok (.deliver 7 frameG) := by decide
/-- Section 3's BUS words: `REGISTER(L1)` 0x002, `REGISTER(L2)` 0x004, `REMOVE(L1)` 0x003. -/
theorem test_decode_bus :
    decode .default ⟨.idle, false, 0⟩ ⟨.bus, 0x002⟩ = .ok (.register 1) ∧
    decode .default ⟨.idle, false, 0⟩ ⟨.bus, 0x004⟩ = .ok (.register 2) ∧
    decode .default ⟨.idle, false, 0⟩ ⟨.bus, 0x003⟩ = .ok (.remove 1) ∧
    decode .default ⟨.idle, false, 0⟩ ⟨.bus, 0b111111111⟩ = .ok (.remove 255) := by decide
theorem test_decode_ctl_and_reset :
    decode .default ⟨.idle, false, 0⟩ ⟨.ctl, 0b1⟩ = .ok .start ∧
    decode .default ⟨.idle, false, 0⟩ ⟨.ctl, 0b0⟩ = .ok .stop ∧
    decode .default ⟨.idle, false, 0⟩ ⟨.rst, 0⟩ = .ok .reset := by decide
theorem test_decode_too_wide_refused :
    decode .default ⟨.idle, false, 0⟩ ⟨.rx, 0x100⟩ = .error (.wordTooWide .rx) ∧
    decode .default ⟨.idle, false, 0⟩ ⟨.bus, 0x200⟩ = .error (.wordTooWide .bus) ∧
    decode .default ⟨.idle, false, 0⟩ ⟨.send, 2 ^ 96⟩ = .error (.wordTooWide .send) := by decide
/-- The class is by the `Cfg` parameter, not by its default value (R66). -/
theorem test_decode_matches_on_the_parameter :
    decode { Cfg.default with delim := 0x7E, distinct := by decide } ⟨.idle, false, 0⟩ ⟨.rx, 0x7E⟩ =
      .ok .rxbIdleDelim ∧
    decode { Cfg.default with delim := 0x7E, distinct := by decide } ⟨.idle, false, 0⟩ ⟨.rx, 0xC0⟩ =
      .ok (.rxbIdleOther 0xC0) := by decide

theorem test_table_words :
    decodeTableWord 8 0xC0 = some .rxbIdleDelim ∧ decodeTableWord 8 0xDB = some .rxbIdleEsc ∧
    decodeTableWord 8 0xDC = some .rxbAfterescSubd ∧ decodeTableWord 8 0xDD = some .rxbAfterescSube ∧
    decodeTableWord 8 0x03 = some (.remove 1) ∧ decodeTableWord 1 1 = some .start ∧ decodeTableWord 1 0 = some .stop ∧
    decodeTableWord 96 0xFF0000000000DBC000000002 = some (.send frameG) ∧ decodeTableWord 0 0 = some .reset ∧
    decodeTableWord 32 0 = none := by decide

/-- The step after `withFetchWord` runs the word's operation, from reset. -/
theorem test_fetch_start : gives (step (State.reset.withFetchWord 1 1)) (fun t => t.link.running) = true := by decide
theorem test_fetch_start_delimiter :
    gives (step (State.reset.withFetchWord 8 0xC0)) (fun t => linkView t == (.inFrame, false, 0, false, [], true)) = true := by
  decide
theorem test_fetch_escaped_delimiter :
    gives (step (State.reset.withFetchWord 8 0xDC))
      (fun t => linkView t == (.inFrame, false, 1, false, [], true) && t.link.buf[0] == 0xC0) = true := by decide
theorem test_fetch_register :
    gives (step (State.reset.withFetchWord 8 0x02)) (fun t => t.link.reg == [1] && t.out.busAcc == [true]) = true := by
  decide
/-- The request placed is the one taken, whatever waits elsewhere. -/
theorem test_fetch_past_waiting_requests :
    gives (step (({ idle [] with inp.rx := [0xC0], inp.ctl := [0] } : State).withFetchWord 8 0x02))
      (fun t => t.link.reg == [1] && t.inp.rx == [0xC0] && t.inp.ctl == [0]) = true := by decide
theorem test_reset_waits : gives (step State.reset) (fun t => t == State.reset) = true := by decide
/-- K4: a byte presented while stopped is not accepted. -/
theorem test_K4 : gives (step (withRx State.reset [0xC0])) (fun t => t == withRx State.reset [0xC0]) = true := by decide

/-! ## The decoder, section 2.3 -/

theorem test_T1 : gives (exec .rxbIdleDelim (idle [])) (fun t => linkView t == (.inFrame, false, 0, false, [], true)) =
    true := by decide
theorem test_T2 : gives (exec .rxbIdleEsc (idle []))
    (fun t => linkView t == (.idle, false, 0, false, [], true) && t.out.labels == [.strayByte 0xDB]) = true := by decide
theorem test_T3 : gives (exec (.rxbIdleOther 0xDC) (idle []))
    (fun t => linkView t == (.idle, false, 0, false, [], true) && t.out.labels == [.strayByte 0xDC]) = true := by decide
theorem test_T4 : gives (exec .rxbInframeDelim (inFrame 12))
    (fun t => linkView t == (.idle, false, 0, false, [], true) &&
      t.out.delivered == [⟨1, upFrame⟩, ⟨2, upFrame⟩] && t.out.labels == []) = true := by decide
theorem test_T5_T7 :
    gives (exec .rxbInframeDelim (inFrame 11))
      (fun t => linkView t == (.idle, false, 0, false, [1, 2], true) && t.out.delivered == [] &&
        t.out.labels == [.frameLength 11 false]) = true ∧
    gives (exec .rxbInframeDelim (inState .default .inFrame false 12 true [1]))
      (fun t => linkView t == (.idle, false, 0, false, [1], true) && t.out.delivered == []) = true ∧
    gives (exec .rxbInframeDelim (inState emitting .inFrame false 12 true [1]))
      (fun t => linkView t == (.idle, false, 0, false, [], true) && t.out.delivered == [⟨1, upFrame⟩]) = true := by decide
theorem test_T8 : gives (exec .rxbInframeEsc (inFrame 3)) (fun t =>
    linkView t == (.inFrame, true, 3, false, [1, 2], true) && t.link.buf == upFrame) = true := by decide
theorem test_T10 : gives (exec (.rxbInframeData 0x00) (inFrame 11)) (fun t =>
    linkView t == (.inFrame, false, 12, false, [1, 2], true) &&
    t.link.buf == #v[1, 2, 3, 4, 5, 6, 7, 8, 9, 10, 11, 0]) = true := by decide
theorem test_T11 : gives (exec (.rxbInframeOverflow 0x99) (inFrame 12)) (fun t =>
    linkView t == (.inFrame, false, 12, true, [1, 2], true) && t.link.buf == upFrame &&
    t.out.labels == [.overflow 0x99]) = true := by decide
theorem test_T12 : gives (exec .rxbAfterescSubd (afterEsc 3)) (fun t =>
    linkView t == (.inFrame, false, 4, false, [1, 2], true) && t.link.buf[2] == 3 && t.link.buf[3] == 0xC0) = true := by
  decide
theorem test_T13 : gives (exec .rxbAfterescSube (afterEsc 3)) (fun t =>
    linkView t == (.inFrame, false, 4, false, [1, 2], true) && t.link.buf[3] == 0xDB && t.link.buf[4] == 5) = true := by
  decide
theorem test_T14 : gives (exec .rxbAfterescSubd (afterEsc 12)) (fun t =>
    linkView t == (.inFrame, false, 12, true, [1, 2], true) && t.link.buf == upFrame &&
    t.out.labels == [.overflow 0xC0]) = true := by decide
theorem test_T16 : gives (exec (.rxbAfterescInvalid 0xC0) (afterEsc 3)) (fun t =>
    linkView t == (.inFrame, false, 3, false, [1, 2], true) && t.link.buf == upFrame &&
    t.out.labels == [.invalidEscape 0xC0]) = true := by decide

/-! ## The encoder and the send path, sections 2.1 and 2.2 -/

theorem test_enc_bytes :
    gives (exec .encByteDelim (idle [])) (fun t => t.out.encOut == [0xDB, 0xDC]) = true ∧
    gives (exec .encByteEsc (idle [])) (fun t => t.out.encOut == [0xDB, 0xDD]) = true ∧
    gives (exec (.encBytePlain 0xDC) (idle [])) (fun t => t.out.encOut == [0xDC]) = true := by decide
/-- E4. -/
theorem test_E4 : gives (exec (.encFrame #v[0xC0, 0xDB, 0xDC, 0xDD, 0x00, 0xFF, 0xC0, 0xC0, 0xDB, 0xDB, 0x7E, 0x7D]) (idle []))
    (fun t => t.out.encOut == [0xC0, 0xDB, 0xDC, 0xDB, 0xDD, 0xDC, 0xDD, 0x00, 0xFF, 0xDB, 0xDC, 0xDB, 0xDC, 0xDB, 0xDD, 0xDB,
      0xDD, 0x7E, 0x7D, 0xC0]) = true := by decide
theorem test_E2_length : (encodeFrame .default (Vector.replicate 12 0xC0)).length = 26 := by decide
theorem test_E8 : gives (exec (.encode frameG) (idle [])) (fun t => t.out.encoded ==
    [[0xC0, 0x02, 0, 0, 0, 0xDB, 0xDC, 0xDB, 0xDD, 0, 0, 0, 0, 0, 0xFF, 0xC0]]) = true := by decide
theorem test_X1 : gives (exec (.send frameG) (idle [])) (fun t => t.out.sendResp == [⟨true, 16⟩] && t.out.tx ==
    [0xC0, 0x02, 0, 0, 0, 0xDB, 0xDC, 0xDB, 0xDD, 0, 0, 0, 0, 0, 0xFF, 0xC0]) = true := by decide
theorem test_X2 : gives (exec (.send frameG) { idle [] with inp.chanOk := false }) (fun t =>
    t.out.sendResp == [⟨false, 0⟩] && t.out.tx == [] && t.out.labels == [.channelFailure]) = true := by decide
/-- R32's worked value, and R19's halves. -/
theorem test_id_word : frameIdWord frameF = 1 ∧ frameId frameF = [1, 0, 0, 0] ∧
    framePayload frameF = [0x10, 0x20, 0x30, 0x40, 0x50, 0x60, 0x70, 0x80] := by decide

/-! ## The registry and dispatch, section 2.5 -/

theorem test_B7 :
    gives (exec (.register 2) (inState twoEntries .idle false 0 false [1]))
      (fun t => t.link.reg == [1, 2] && t.out.busAcc == [true]) = true ∧
    gives (exec (.register 3) (inState twoEntries .idle false 0 false [1, 2]))
      (fun t => t.link.reg == [1, 2] && t.out.busAcc == [false]) = true := by decide
theorem test_B5 :
    gives (exec (.remove 1) (idle [1, 2, 1])) (fun t => t.link.reg == [2, 1] && t.out.busAcc == [true]) = true := by decide
theorem test_B6 :
    gives (exec (.remove 9) (idle [2, 1])) (fun t => t.link.reg == [2, 1] && t.out.busAcc == [false]) = true := by decide
theorem test_B4 : gives (exec (.dispatchDrain frameF) (idle [1, 2, 1])) (fun t => t.link.reg == [] &&
    t.out.delivered == [⟨1, frameF⟩, ⟨2, frameF⟩, ⟨1, frameF⟩]) = true := by decide
theorem test_B8 : gives (exec (.dispatchDrain frameF) (idle [])) (fun t => t.out.delivered == []) = true := by decide
theorem test_B1p : gives (exec (.dispatchPersist frameF) (inState keeping .idle false 0 false [1, 2, 3])) (fun t =>
    t.link.reg == [1, 2, 3] && t.out.delivered == [⟨1, frameF⟩, ⟨2, frameF⟩, ⟨3, frameF⟩]) = true := by decide
theorem test_deliver : gives (exec (.deliver 255 frameF) (idle [1])) (fun t =>
    t.link.reg == [1] && t.out.delivered == [⟨255, frameF⟩]) = true := by decide

/-! ## A listener that never completes (spec/93_implementation_defined.md U10) -/

/-- The second of three listeners never completes: the first has its delivery, the third gets none. -/
theorem test_stalled_drain : gives (exec (.dispatchDrain frameF) (withStall 1 (idle [1, 2, 3]))) (fun t =>
    t.out.delivered == [⟨1, frameF⟩] && t.stuck == some ⟨2, frameF⟩ && t.link.reg == [3]) = true := by decide
/-- The closing delimiter gets stuck at once; the decoder was already in Idle (R91). -/
theorem test_stalled_close : gives (exec .rxbInframeDelim (withStall 0 (inFrame 12))) (fun t =>
    t.out.delivered == [] && t.stuck == some ⟨1, upFrame⟩ && linkView t == (.idle, false, 0, false, [2], true)) = true := by
  decide
/-- "no later operation of that instance other than `SEND` is taken". -/
theorem test_stuck_takes_only_send :
    granted (isStuck { idle [] with inp.rx := [0xC0], inp.func := [5], inp.bus := [2], inp.ctl := [0], inp.rst := 1 }) =
      none ∧
    granted (isStuck { idle [] with inp.rx := [0xC0], inp.send := [5], inp.ctl := [0], inp.rst := 1 }) = some .send := by
  decide
theorem test_stuck_sends : gives (step (isStuck { idle [] with inp.send := [0xFF0000000000DBC000000002] })) (fun t =>
    t.out.sendResp == [⟨true, 16⟩] && t.stuck == some ⟨2, frameF⟩) = true := by decide
theorem test_fetch_past_a_stuck_delivery :
    gives (step ((isStuck (idle [])).withFetchWord 8 0x02)) (fun t => t.link.reg == [1]) = true := by decide

/-! ## Link control, section 2.6 -/

theorem test_K1 : gives (exec .stop (inState .default .inFrame true 7 false [1]))
    (fun t => linkView t == (.idle, false, 0, false, [1], false)) = true := by decide
theorem test_K2 : gives (exec .start (inFrame 5)) (fun t => t == inFrame 5) = true := by decide
theorem test_R117 : gives (exec .start { idle [1] with link.running := false })
    (fun t => linkView t == (.idle, false, 0, false, [1], true)) = true := by decide
theorem test_K3 : gives (exec .stop State.reset) (fun t => t == State.reset) = true := by decide
theorem test_K5 : gives (exec .reset (inFrame 12)) (fun t => linkView t == (.idle, false, 0, false, [], false)) = true := by
  decide

/-! ## Witnesses: states and operands that meet the hypotheses of the statements, each clause at a boundary -/

theorem witness_DecodingAnEncodedOperationGivesItBack :
    (Instr.rxbInframeData 0xDD).wf .default = true ∧
    (Instr.rxbInframeData 0xDD).applies .default ⟨.inFrame, false, 11⟩ = true ∧
    (Instr.rxbInframeOverflow 0x00).wf .default = true ∧
    (Instr.rxbInframeOverflow 0x00).applies .default ⟨.inFrame, false, 12⟩ = true ∧
    (Instr.deliver 255 frameG).wf .default = true ∧
    (Instr.deliver 255 frameG).applies .default ⟨.idle, false, 0⟩ = true := by decide

theorem witness_EachWordIsTheWordOfItsOperation :
    decode .default ⟨.inFrame, true, 12⟩ ⟨.rx, 0xC0⟩ = .ok (.rxbAfterescInvalid 0xC0) ∧
    decode .default ⟨.idle, false, 0⟩ ⟨.bus, 0x1FF⟩ = .ok (.remove 255) := by decide

/-- A port of each kind granted, with a request at its head; and no port granted. -/
theorem witness_StepRunsTheDecodedRequest :
    granted State.reset = none ∧
    granted (withRx (inFrame 12) [0xC0]) = some .rx ∧ (withRx (inFrame 12) [0xC0]).inp.rx = 0xC0 :: [] ∧
    granted { State.reset with inp.send := [5] } = some .send ∧
    granted { State.reset with inp.func := [5] } = some .func ∧
    granted { State.reset with inp.bus := [0x1FF] } = some .bus ∧ 0x1FF < 2 ^ (State.reset.cfg.lw + 1) ∧
    granted { State.reset with inp.ctl := [1] } = some .ctl ∧
    granted { State.reset with inp.ctl := [0] } = some .ctl ∧
    granted { State.reset with inp.rst := 1 } = some .rst := by decide

/-- Stopped with a byte and a `STOP` presented; running, stuck, with a byte and a `SEND`; stopped with a byte alone;
running with a byte. -/
theorem witness_BytesAreAcceptedOnlyWhileRunning :
    (∃ t, step { withRx State.reset [0xC0] with inp.ctl := [0] } = .next t) ∧
    ({ withRx State.reset [0xC0] with inp.ctl := [0] } : State).link.running = false ∧
    (∃ t, step (isStuck { idle [] with inp.rx := [0xC0], inp.send := [5] }) = .next t) ∧
    (isStuck { idle [] with inp.rx := [0xC0], inp.send := [5] }).stuck ≠ none ∧
    (∀ p, p ≠ Port.rx → presented p (withRx State.reset [0xC0]) = none) ∧
    (withRx (idle []) [0xC0]).link.running = true ∧ (withRx (idle []) [0xC0]).stuck = none ∧
    (withRx (idle []) [0xC0]).inp.rx ≠ [] :=
  ⟨⟨_, rfl⟩, by decide, ⟨_, rfl⟩, by decide, by intro p; cases p <;> decide, by decide, by decide, by decide⟩

theorem witness_EveryOrderOfReadyPortsIsAdmitted :
    granted { withRx (idle []) [0xC0] with inp.ctl := [0] } = some .rx ∧
    Port.ctl ∈ readyPorts { withRx (idle []) [0xC0] with inp.ctl := [0] } := by decide

/-- One byte waiting, and the state after it is accepted. -/
def oneByte : State := withRx (idle []) [0xC0]
def oneByteTaken : State := enterState .inFrame (accept .rx oneByte)

/-- A fair run in which a presented byte is accepted and the block then waits. -/
theorem witness_FairRunsAcceptEveryRequest :
    ∃ σ : Nat → State, IsRun σ ∧ WeaklyFair σ ∧ presented .rx (σ 0) ≠ none ∧
      ∀ j, 0 ≤ j → (σ j).link.running = true ∧ (σ j).stuck = none := by
  have h0 : step oneByte = .next oneByteTaken := rfl
  have h1 : step oneByteTaken = .next oneByteTaken := rfl
  refine ⟨fun k => if k = 0 then oneByte else oneByteTaken, ?_, ?_, by decide, ?_⟩
  · intro k
    cases k with
    | zero => exact h0
    | succ k => exact h1
  · intro p k h
    have hp : portReady oneByteTaken p = true := by
      have := h (k + 1) (by omega)
      simpa using this
    cases p <;> exact absurd hp (by decide)
  · intro j _
    by_cases h : j = 0
    · simp only [h, if_true]; decide
    · simp only [h, if_false]; decide

/-- The widest word; stuck with nothing to send, and with a `SEND`. -/
theorem witness_EveryStepAnswersANextState :
    State.PortsInRange { State.reset with inp.bus := [0x1FF, 0] } ∧
    ((isStuck (idle [])).PortsInRange ∧ (isStuck (idle [])).stuck ≠ none ∧ (isStuck (idle [])).inp.send = []) ∧
    (let s := isStuck { idle [] with inp.send := [5] }
     s.PortsInRange ∧ s.stuck ≠ none ∧ s.inp.send ≠ []) := by
  refine ⟨?_, ⟨?_, by decide, rfl⟩, ?_, by decide, by decide⟩
  · show ∀ w ∈ [0x1FF, 0], w < 2 ^ 9
    decide
  · intro w h
    cases h
  · intro w h
    cases h

theorem witness_ExactlyOneCaseRunsForEachByte : (afterEsc 12).link.running = true := by decide

theorem witness_StartDelimiterOpensAFrame : (idle [1]).link.running = true ∧ (idle [1]).link.st = .idle := by decide

theorem witness_StrayEscChangesNoState : (idle [1]).link.running = true ∧ (idle [1]).link.st = .idle := by decide

theorem witness_StrayByteChangesNoState :
    (idle [1]).link.running = true ∧ (idle [1]).link.st = .idle ∧ (0xDC : Byte) ≠ (idle [1]).cfg.delim ∧
    (0xDC : Byte) ≠ (idle [1]).cfg.esc := by decide

/-- A complete frame, its two listeners the last to complete; an overflowed one that may be emitted; and, discarded, one
byte short and an overflowed one. -/
theorem witness_ClosingDelimiterEmitsOrDiscards :
    (let s := withStall 2 (inFrame 12)
     s.link.running = true ∧ s.link.st = .inFrame ∧ s.link.esc = false ∧
      (s.link.n = 12 ∧ (s.link.ovf = false ∨ s.cfg.longFrameEmits = true)) ∧
      ListenersComplete s s.link.reg.length) ∧
    ((inFrame 12).link.running = true ∧ (inFrame 12).link.st = .inFrame ∧ (inFrame 12).link.esc = false) ∧
    ((inFrame 12).link.n = 12 ∧ ((inFrame 12).link.ovf = false ∨ (inFrame 12).cfg.longFrameEmits = true)) ∧
    (let s := inState emitting .inFrame false 12 true [1]
     s.link.running = true ∧ s.link.st = .inFrame ∧ s.link.esc = false ∧
      s.link.n = 12 ∧ (s.link.ovf = false ∨ s.cfg.longFrameEmits = true)) ∧
    (let s := inFrame 11
     s.link.running = true ∧ s.link.st = .inFrame ∧ s.link.esc = false ∧
      ¬ (s.link.n = 12 ∧ (s.link.ovf = false ∨ s.cfg.longFrameEmits = true))) ∧
    (let s := inState .default .inFrame false 12 true [1]
     s.link.running = true ∧ s.link.st = .inFrame ∧ s.link.esc = false ∧
      ¬ (s.link.n = 12 ∧ (s.link.ovf = false ∨ s.cfg.longFrameEmits = true))) :=
  ⟨⟨rfl, rfl, rfl, by decide, complete_withStall 2 _⟩, by decide⟩

theorem witness_CompletedFrameIsDispatchedFromIdle :
    let s := inFrame 12
    s.link.running = true ∧ s.link.st = .inFrame ∧ s.link.esc = false ∧ s.link.n = 12 ∧
    (s.link.ovf = false ∨ s.cfg.longFrameEmits = true) := by decide

theorem witness_EscapeIntroducerSetsEsc :
    (inFrame 12).link.running = true ∧ (inFrame 12).link.st = .inFrame ∧ (inFrame 12).link.esc = false := by decide

theorem witness_DataByteIsAppended :
    let s := inFrame 11
    s.link.n < 12 ∧ s.link.running = true ∧ s.link.st = .inFrame ∧ s.link.esc = false ∧
    (0xDC : Byte) ≠ s.cfg.delim ∧ (0xDC : Byte) ≠ s.cfg.esc := by decide

theorem witness_DataByteBeyondCapacityIsDropped :
    let s := inFrame 12
    s.link.running = true ∧ s.link.st = .inFrame ∧ s.link.esc = false ∧ s.link.n = 12 ∧
    (0x99 : Byte) ≠ s.cfg.delim ∧ (0x99 : Byte) ≠ s.cfg.esc := by decide

/-- Both clauses: `n = 11` and `n = 12`. -/
theorem witness_EscapedDelimiterIsAppended :
    ((afterEsc 11).link.running = true ∧ (afterEsc 11).link.st = .inFrame ∧ (afterEsc 11).link.esc = true ∧
      (afterEsc 11).link.n < 12) ∧
    ((afterEsc 12).link.running = true ∧ (afterEsc 12).link.st = .inFrame ∧ (afterEsc 12).link.esc = true ∧
      (afterEsc 12).link.n = 12) := by decide

/-- Both clauses, from the first index and at `n = 12`. -/
theorem witness_EscapedEscIsAppended :
    ((afterEsc 0).link.running = true ∧ (afterEsc 0).link.st = .inFrame ∧ (afterEsc 0).link.esc = true ∧
      (afterEsc 0).link.n < 12) ∧
    ((afterEsc 12).link.running = true ∧ (afterEsc 12).link.st = .inFrame ∧ (afterEsc 12).link.esc = true ∧
      (afterEsc 12).link.n = 12) := by decide

theorem witness_InvalidEscapeIsDropped :
    let s := afterEsc 12
    s.link.running = true ∧ s.link.st = .inFrame ∧ s.link.esc = true ∧
    (0xC0 : Byte) ≠ s.cfg.subD ∧ (0xC0 : Byte) ≠ s.cfg.subE := by decide

theorem witness_EncoderRowsSubstituteReservedBytes :
    (0xDC : Byte) ≠ (idle []).cfg.delim ∧ (0xDC : Byte) ≠ (idle []).cfg.esc := by decide

/-- An `ESC` inside an encoding, followed by each substitute. -/
theorem witness_EncodingEscapesEveryReservedByte :
    (encodeFrame .default frameG)[5]? = some Cfg.default.esc ∧ (encodeFrame .default frameG)[6]? = some Cfg.default.subD ∧
    (encodeFrame .default frameG)[7]? = some Cfg.default.esc ∧ (encodeFrame .default frameG)[8]? = some Cfg.default.subE := by
  decide

theorem witness_EncodingIsInjective : encodeFrame .default frameG = encodeFrame .default frameG := rfl

theorem witness_SendWritesTheWholeBurstOrNothing :
    (idle []).inp.chanOk = true ∧ ({ idle [] with inp.chanOk := false } : State).inp.chanOk = false := by decide

theorem witness_SendAndEncodeUseNoLinkState :
    Instr.encode frameG = .send frameG ∨ Instr.encode frameG = .encode frameG := .inr rfl

/-- A failing `SEND` and a byte that raises a label, in this order. -/
theorem witness_SendAndEncodeCommuteWithTheLink :
    ∃ a b, exec (.send frameG) { idle [1] with inp.chanOk := false } = .next a ∧ exec (.rxbIdleOther 0x41) a = .next b :=
  ⟨_, _, rfl, rfl⟩

/-- Unbounded, one short of full, and full. -/
theorem witness_RegisterAppendsUnlessFull :
    (255 < 2 ^ (idle [1]).cfg.lw ∧ ∀ m, (idle [1]).cfg.lmax = some m → (idle [1]).link.reg.length < m) ∧
    (∀ m, (inState twoEntries .idle false 0 false [1]).cfg.lmax = some m → [1].length < m) ∧
    ((inState twoEntries .idle false 0 false [1, 2]).cfg.lmax = some 2 ∧ 2 ≤ [1, 2].length) :=
  ⟨⟨by decide, by intro m h; cases h⟩, by intro m h; cases h; decide, by decide⟩

/-- A `lid` registered twice, and an absent one. -/
theorem witness_RemoveDeletesTheOldestEntry :
    ((idle [2, 1, 1]).link.reg = [2] ++ 1 :: [1] ∧ 1 ∉ [2] ∧ 1 < 2 ^ (idle [2, 1, 1]).cfg.lw) ∧
    9 ∉ (idle [2, 1, 1]).link.reg := by decide

/-- Both clauses: the three listeners are the last to complete, and the third is the one that does not. -/
theorem witness_DrainingDispatchEmptiesTheRegistry :
    ((withStall 3 (idle [1, 2, 1])).cfg.persist = false ∧ ListenersComplete (withStall 3 (idle [1, 2, 1])) 3) ∧
    ((withStall 2 (idle [1, 2, 1])).cfg.persist = false ∧ 2 < (withStall 2 (idle [1, 2, 1])).link.reg.length ∧
      (withStall 2 (idle [1, 2, 1])).inp.stall = some 2) :=
  ⟨⟨rfl, complete_withStall 3 _⟩, by decide⟩

/-- Both clauses: no listener stalls, and the first does. -/
theorem witness_PersistentDispatchKeepsTheRegistry :
    let s := inState keeping .idle false 0 false [1, 2]
    (s.cfg.persist = true ∧ ListenersComplete s 2) ∧
    ((withStall 0 s).cfg.persist = true ∧ 0 < (withStall 0 s).link.reg.length ∧ (withStall 0 s).inp.stall = some 0) :=
  ⟨⟨rfl, by intro k h; cases h⟩, by decide⟩

/-- Both clauses: the last delivery to complete, and the one after it. -/
theorem witness_DeliverIsOneTransaction :
    255 < 2 ^ (idle []).cfg.lw ∧ (withStall 1 (idle [])).inp.stall ≠ some 0 ∧ (withStall 0 (idle [])).inp.stall = some 0 := by
  decide

/-- Both clauses, each under a policy, with a `lid` that occurs twice: all complete, and all but the last. -/
theorem witness_EachEntryIsDeliveredOnce :
    ((∃ t, exec (.dispatchDrain frameF) (withStall 3 (idle [1, 2, 1])) = .next t) ∧
      ListenersComplete (withStall 3 (idle [1, 2, 1])) 3) ∧
    (let s := withStall 2 (inState keeping .idle false 0 false [1, 2, 1])
     (∃ t, exec (.dispatchPersist frameF) s = .next t) ∧ 2 < s.link.reg.length ∧ s.inp.stall = some 2) :=
  ⟨⟨⟨_, rfl⟩, complete_withStall 3 _⟩, ⟨_, rfl⟩, by decide, rfl⟩

/-- A registry for exactly three, empty. -/
theorem witness_ThreeListenersAreInvokedInOrder :
    let s := withStall 3 (inState { Cfg.default with lmax := some 3 } .idle false 0 false [])
    s.link.reg = [] ∧ ListenersComplete s 3 ∧ (∀ m, s.cfg.lmax = some m → 3 ≤ m) ∧ 1 < 2 ^ s.cfg.lw ∧ 2 < 2 ^ s.cfg.lw ∧ 255 < 2 ^ s.cfg.lw :=
  ⟨rfl, complete_withStall 3 _, by intro m h; cases h; decide, by decide, by decide, by decide⟩

/-- A closing delimiter that delivers, and one that gets stuck at the first listener. -/
theorem witness_OnlyACompleteFramesCloseDelivers :
    (∃ t, step (withRx (inFrame 12) [0xC0]) = .next t ∧ t.out.delivered ≠ (withRx (inFrame 12) [0xC0]).out.delivered) ∧
    (∃ t, step (withStall 0 (withRx (inFrame 12) [0xC0])) = .next t ∧
      t.stuck ≠ (withStall 0 (withRx (inFrame 12) [0xC0])).stuck) :=
  ⟨⟨_, rfl, by decide⟩, ⟨_, rfl, by decide⟩⟩

theorem witness_StartRunsTheLink : State.reset.link.running = false ∧ (inFrame 5).link.running = true := by decide

theorem witness_StopEndsTheLink : (afterEsc 7).link.running = true ∧ State.reset.link.running = false := by decide

theorem witness_OperationsRunExactlyWhereTheirRowApplies :
    (∃ t, exec (.rxbInframeData 1) (inFrame 11) = .next t) ∧
    exec (.rxbInframeData 1) (inFrame 12) = .refused .rowNotSelected := ⟨⟨_, rfl⟩, rfl⟩

theorem witness_OperationsChangeOnlyWhatTheirRuleWrites : ∃ t, exec .reset (afterEsc 12) = .next t := ⟨_, rfl⟩

theorem inv_running {c : Cfg} {st : DecoderState} {n : Nat} (h : n ≤ 12) (hi : st = .idle → n = 0)
    (hm : c.lmax = none) : (inState c st false n false []).Inv :=
  ⟨h, fun e => ⟨hi e, rfl, rfl⟩, by simp [inState], by simp [inState], by simp [inState],
    by intro m hm'; simp [inState, hm] at hm', by simp [inState]⟩

/-- An append to the last free index, and the operation that clears the count. -/
theorem witness_CountMovesByOneAppendOrToZero :
    (inState .default .inFrame false 11 false []).Inv ∧
    (∃ t, exec (.rxbInframeData 1) (inState .default .inFrame false 11 false []) = .next t ∧ t.link.n = 12) ∧
    (∃ t, exec .rxbInframeDelim (inState .default .inFrame false 11 false []) = .next t ∧ t.link.n = 0) :=
  ⟨inv_running (by decide) (by simp) rfl, ⟨_, rfl, rfl⟩, ⟨_, rfl, rfl⟩⟩

theorem witness_BufferIsWrittenOnlyAtTheCount :
    ∃ t, exec (.rxbInframeData 0x55) (inFrame 11) = .next t ∧ t.link.buf[11] ≠ (inFrame 11).link.buf[11] :=
  ⟨_, rfl, by decide⟩

theorem witness_InvariantIsKeptByEveryStep :
    (withRx (inState .default .inFrame false 12 false []) [0x99]).Inv ∧
    ∃ t, step (withRx (inState .default .inFrame false 12 false []) [0x99]) = .next t ∧ t.link.ovf = true :=
  ⟨have h := inv_running (c := .default) (st := .inFrame) (n := 12) (by decide) (by simp) rfl
   ⟨h.count_le, h.idle_clear, h.esc_inFrame, h.ovf_full, h.stopped_idle, h.reg_le, h.lid_lt⟩, _, rfl, rfl⟩

/-- Two states that differ in a byte not yet collected, and a step that appends the byte before it. -/
theorem witness_UncollectedBytesAreUnobservable :
    SameButUncollected (withRx (inFrame 10) [0x55])
      { withRx (inFrame 10) [0x55] with link.buf := #v[1, 2, 3, 4, 5, 6, 7, 8, 9, 10, 0xEE, 0xEE] } ∧
    ∃ t, step (withRx (inFrame 10) [0x55]) = .next t :=
  ⟨⟨rfl, by decide⟩, _, rfl⟩

theorem witness_LabelsAreUnobservable : ∃ t, step (withRx (idle []) [0x41]) = .next t ∧ t.out.labels ≠ [] :=
  ⟨_, rfl, by decide⟩

theorem witness_AtMostOneEventPerOperation : ∃ t, exec (.rxbInframeOverflow 0x99) (inFrame 12) = .next t := ⟨_, rfl⟩

theorem onlyRx_at {c : Cfg} {st : DecoderState} {esc : Bool} {n : Nat} {ovf : Bool} {reg : List Nat} {bs : List Byte} :
    (withRx (inState c st esc n ovf reg) bs).OnlyRx := ⟨rfl, rfl, rfl, rfl, rfl, rfl, rfl⟩

theorem witness_DecoderRecoversAnEncodedFrame :
    let s := withRx (idle [1, 2]) (encodeFrame .default frameG ++ [0x41])
    s.OnlyRx ∧ s.link.st = .idle ∧ s.inp.rx = encodeFrame s.cfg frameG ++ [0x41] ∧
    ListenersComplete s s.link.reg.length := ⟨onlyRx_at, rfl, rfl, by intro k h; cases h⟩

/-- D11b: `F`, three stray bytes, `G`; the drained registry's one listener is the last to complete. -/
theorem witness_BackToBackFramesAreBothDispatched :
    let s := withStall 1
      (withRx (idle [1]) (encodeFrame .default frameF ++ [0x55, 0xDB, 0x66] ++ encodeFrame .default frameG ++ []))
    s.OnlyRx ∧ s.link.st = .idle ∧ s.cfg.delim ∉ [0x55, 0xDB, 0x66] ∧
    s.inp.rx = encodeFrame s.cfg frameF ++ [0x55, 0xDB, 0x66] ++ encodeFrame s.cfg frameG ++ [] ∧
    ListenersComplete s (s.link.reg.length + (afterDispatch s.cfg s.link.reg).length) :=
  ⟨⟨rfl, rfl, rfl, rfl, rfl, rfl, rfl⟩, rfl, by decide, rfl, complete_withStall 1 _⟩

/-- D9's stray bytes. -/
theorem witness_StrayBytesNeverLeaveIdle :
    let s := withRx (idle [1]) [0x41, 0xDB, 0xDC, 0xDD, 0x00, 0xC0]
    s.OnlyRx ∧ s.link.st = .idle ∧ s.cfg.delim ∉ [0x41, 0xDB, 0xDC, 0xDD, 0x00] ∧
    s.inp.rx = [0x41, 0xDB, 0xDC, 0xDD, 0x00] ++ [0xC0] := ⟨onlyRx_at, rfl, by decide, rfl⟩

/-- D12's two frames, from InFrame with nothing collected and with eleven bytes collected. -/
theorem witness_InvertedPhaseLosesEveryFrame :
    (let s := withRx (inFrame 0) (streamOf .default [frameF, frameG])
     s.OnlyRx ∧ s.link.st = .inFrame ∧ s.link.esc = false ∧ s.link.n < 12 ∧
     s.inp.rx = streamOf s.cfg [frameF, frameG] ++ []) ∧ (inFrame 11).link.n < 12 :=
  ⟨⟨onlyRx_at, rfl, rfl, by decide, by decide⟩, by decide⟩

theorem witness_DelimitersToggleOutsideAfterEscape :
    (withRx (idle []) [0xC0]).OnlyRx ∧ (withRx (idle []) [0xC0]).inp.rx = (idle []).cfg.delim :: [] ∧
    (withRx (inFrame 12) [0xC0]).OnlyRx ∧ (inFrame 12).link.st = .inFrame ∧ (inFrame 12).link.esc = false ∧
    (withRx (afterEsc 12) [0xC0]).OnlyRx ∧ (afterEsc 12).link.st = .inFrame ∧ (afterEsc 12).link.esc = true :=
  ⟨onlyRx_at, rfl, onlyRx_at, rfl, rfl, onlyRx_at, rfl, rfl⟩

/-- D2's eleven data bytes, the last an escaped delimiter. -/
theorem witness_PartialFrameIsDiscarded :
    let ds : List Byte := [1, 2, 3, 4, 5, 6, 7, 8, 9, 10, 0xC0]
    let s := withRx (idle [1]) (0xC0 :: (escapeBytes .default ds ++ 0xC0 :: []))
    s.OnlyRx ∧ s.link.st = .idle ∧ ds.length < 12 ∧
    s.inp.rx = s.cfg.delim :: (escapeBytes s.cfg ds ++ s.cfg.delim :: []) := ⟨onlyRx_at, rfl, by decide, rfl⟩

/-- D5: twelve data bytes and an escaped delimiter, under both settings of `LONG_FRAME_EMITS`. -/
theorem witness_OverlongFrameIsRejectedSafely :
    let ds : List Byte := [1, 2, 3, 4, 5, 6, 7, 8, 9, 10, 11, 12, 0xC0]
    let bs : List Byte := 0xC0 :: (escapeBytes .default ds ++ 0xC0 :: [])
    let s := withRx (idle [1]) bs
    let e := withRx (inState emitting .idle false 0 false [1]) bs
    (s.OnlyRx ∧ s.link.st = .idle ∧ s.link.n ≤ 12 ∧ 12 < ds.length ∧
      s.inp.rx = s.cfg.delim :: (escapeBytes s.cfg ds ++ s.cfg.delim :: []) ∧ s.cfg.longFrameEmits = false) ∧
    (e.OnlyRx ∧ e.link.st = .idle ∧ e.link.n ≤ 12 ∧
      e.inp.rx = e.cfg.delim :: (escapeBytes e.cfg ds ++ e.cfg.delim :: []) ∧ e.cfg.longFrameEmits = true ∧
      ListenersComplete e e.link.reg.length) :=
  ⟨⟨onlyRx_at, rfl, by decide, by decide, rfl, rfl⟩, ⟨onlyRx_at, rfl, by decide, rfl, rfl, by intro k h; cases h⟩⟩

/-- Program P1: A stopped, B running under another policy. -/
theorem witness_LoopbackDeliversTheSentFrame :
    let a := State.reset
    let b := withRx (inState keeping .idle false 0 false [1, 2]) (encodeFrame .default frameG ++ [0x41])
    (a.cfg.delim = b.cfg.delim ∧ a.cfg.esc = b.cfg.esc ∧ a.cfg.subD = b.cfg.subD ∧ a.cfg.subE = b.cfg.subE) ∧
    a.inp.chanOk = true ∧
    (∃ a', exec (.send frameG) a = .next a' ∧ a'.out.tx = a.out.tx ++ encodeFrame .default frameG) ∧
    b.OnlyRx ∧ b.link.st = .idle ∧ b.inp.rx = encodeFrame .default frameG ++ [0x41] ∧
    ListenersComplete b b.link.reg.length :=
  ⟨by decide, rfl, ⟨_, rfl, rfl⟩, onlyRx_at, rfl, rfl, by intro k h; cases h⟩

end Sys2Proof.Tests
end

section
/-! PROOFS. The encoder's rows (spec/30_encoding.md R50, R53): each has no port and no context of the decoder, so it runs
from every state and only appends to the encoder's output. -/

namespace Sys2Proof.Machine

/-- An operation that takes no received byte has its effect wherever its row applies, running or not. -/
theorem exec_eq_next_effect {i : Instr} {s : State} (hrx : i.isRx = false) (hwf : i.wf s.cfg = true)
    (happ : i.applies s.cfg s.context = true) : exec i s = .next (effect i s) :=
  exec_next_iff.mpr ⟨runsIn_iff.mpr ⟨by simp [hrx], hwf, happ⟩, rfl⟩

theorem plainByte_of_ne {c : Cfg} {d : Byte} (hdelim : d ≠ c.delim) (hesc : d ≠ c.esc) : plainByte c d = true := by
  simp [plainByte, isReserved, hdelim, hesc]

/-- The encoding of a Frame by its bytes in index order (R50), without the recursion of `escapeBytes`. -/
theorem encodeFrame_eq_flatMap (c : Cfg) (f : Frame) :
    encodeFrame c f = c.delim :: (f.toList.flatMap (escapeByte c) ++ [c.delim]) := by
  rw [encodeFrame, escapeBytes_eq_flatMap]

/-- Settles O23: each of the three rows runs from every state, the plain row because its byte is not reserved. -/
theorem encoderRowsSubstituteReservedBytes : Obligations.EncoderRowsSubstituteReservedBytes := by
  intro s
  refine ⟨?delim, ?esc, ?plain⟩
  case delim => exact exec_eq_next_effect rfl rfl rfl
  case esc => exact exec_eq_next_effect rfl rfl rfl
  case plain =>
    intro d hdelim hesc
    exact exec_eq_next_effect rfl (plainByte_of_ne hdelim hesc) rfl

/-- Settles O24: the row runs from every state, and what it appends is `encodeFrame`, byte by byte `e` of R53. -/
theorem encFrameEmitsTheDelimitedEncoding : Obligations.EncFrameEmitsTheDelimitedEncoding := by
  intro s f
  calc exec (.encFrame f) s
      = .next (emitEncoder (encodeFrame s.cfg f) s) := exec_eq_next_effect rfl rfl rfl
    _ = .next (emitEncoder (s.cfg.delim :: (f.toList.flatMap (escapeByte s.cfg) ++ [s.cfg.delim])) s) := by
        rw [encodeFrame_eq_flatMap]

end Sys2Proof.Machine
end

section
/-! PROOFS. The encoding as a value (spec/40_encoder.md R70, R71): what `ENCODE` returns, and how long it is. -/

namespace Sys2Proof.Machine

/-- Twelve bytes escaped between two delimiters: one more byte for each reserved one (R71). -/
theorem encodeFrame_length (c : Cfg) (f : Frame) : (encodeFrame c f).length = 14 + reservedCount c f := by
  have hbody : (escapeBytes c f.toList).length = 12 + reservedCount c f := by
    rw [escapeBytes_length, Vector.length_toList, reservedCount]
  simp only [encodeFrame, List.length_cons, List.length_append, List.length_nil, hbody]
  omega

/-- A Frame has twelve bytes to be reserved. -/
theorem reservedCount_le_twelve (c : Cfg) (f : Frame) : reservedCount c f ≤ 12 :=
  calc reservedCount c f
      ≤ f.toList.length := List.countP_le_length
    _ = 12 := Vector.length_toList

theorem reservedCount_eq_countP (c : Cfg) (f : Frame) :
    reservedCount c f = f.toList.countP fun b => b = c.delim ∨ b = c.esc := by
  have hpred : isReserved c = fun b => decide (b = c.delim ∨ b = c.esc) := by
    funext b
    simp [isReserved, beq_eq_decide]
  rw [reservedCount, hpred]

/-- Settles O26: the exact length counts the reserved bytes, and there are at most twelve of them. -/
theorem encodedLengthIsFourteenPlusReserved : Obligations.EncodedLengthIsFourteenPlusReserved := by
  intro c f
  have hlength := encodeFrame_length c f
  have hreserved := reservedCount_le_twelve c f
  refine ⟨?exact, ?lower, ?upper⟩
  case exact => rw [hlength, reservedCount_eq_countP]
  case lower => omega
  case upper => omega

/-- Settles O25: the row runs from every state, and what it returns is `encodeFrame`, byte by byte `e` of R53. -/
theorem encodeReturnsTheDelimitedEncoding : Obligations.EncodeReturnsTheDelimitedEncoding := by
  intro s f
  calc exec (.encode f) s
      = .next (returnEncoding (encodeFrame s.cfg f) s) := exec_eq_next_effect rfl rfl rfl
    _ = .next (returnEncoding (s.cfg.delim :: (f.toList.flatMap (escapeByte s.cfg) ++ [s.cfg.delim])) s) := by
        rw [encodeFrame_eq_flatMap]

end Sys2Proof.Machine
end

section
/-! PROOFS. The decoder's rows (spec/41_decoder.md R80, R82, R84, R85, R87, R90): while the link runs, the byte's
context and class select one row, and that row's effect is what its rule writes. -/

namespace Sys2Proof

/-! ## The contexts of R55 on the decoder's state -/

@[simp] theorem RxContext.isIdle_iff {x : RxContext} : x.isIdle = true ↔ x.st = .idle := by
  simp [RxContext.isIdle]

@[simp] theorem RxContext.isInFrame_iff {x : RxContext} : x.isInFrame = true ↔ x.st = .inFrame ∧ x.esc = false := by
  simp [RxContext.isInFrame]

@[simp] theorem RxContext.isAfterEscape_iff {x : RxContext} :
    x.isAfterEscape = true ↔ x.st = .inFrame ∧ x.esc = true := by
  simp [RxContext.isAfterEscape]

theorem invalidSubstitute_of_ne {c : Cfg} {b : Byte} (hsubD : b ≠ c.subD) (hsubE : b ≠ c.subE) :
    invalidSubstitute c b = true := by
  simp [invalidSubstitute, hsubD, hsubE]

/-- A byte always fits RX, so decoding its request is R87's selection. -/
theorem decode_rxRequest (c : Cfg) (x : RxContext) (b : Byte) : decode c x (rxRequest b) = .ok (decodeRx c x b) := by
  have hfits : b.toNat < 2 ^ Port.width c .rx := b.isLt
  simp only [decode, rxRequest, if_pos hfits, decodeFitting, BitVec.ofNat_toNat, BitVec.setWidth_eq]

end Sys2Proof

namespace Sys2Proof.Machine

/-- While the link runs, every operation has its effect where its row applies. -/
theorem exec_eq_next_effect_of_running {i : Instr} {s : State} (hrun : s.link.running = true)
    (hwf : i.wf s.cfg = true) (happ : i.applies s.cfg s.context = true) : exec i s = .next (effect i s) :=
  exec_next_iff.mpr ⟨runsIn_iff.mpr ⟨fun _ => hrun, hwf, happ⟩, rfl⟩

/-- While the link runs, the row R87 selects for a byte runs. -/
theorem exec_decodeRx {s : State} (hrun : s.link.running = true) (b : Byte) :
    exec (decodeRx s.cfg s.context b) s = .next (effect (decodeRx s.cfg s.context b) s) := by
  obtain ⟨-, -, hwf, happ⟩ := decodeRx_spec s.cfg s.context b
  exact exec_eq_next_effect_of_running hrun hwf happ

/-- An RX row with a given byte that runs is the one R87 selects for that byte. -/
theorem eq_decodeRx_of_exec_next {s t : State} {j : Instr} {b : Byte} (hrx : j.isRx = true)
    (hbyte : encode s.cfg j = rxRequest b) (hexec : exec j s = .next t) : j = decodeRx s.cfg s.context b := by
  obtain ⟨-, hwf, happ⟩ := runsIn_iff.mp (exec_next_iff.mp hexec).1
  exact (decodeRx_of_applies hrx hbyte hwf happ).symm

/-- Settles O11: the case is `decodeRx`'s, which runs where its row applies, and any RX row of the same byte that runs
applies there too. -/
theorem exactlyOneCaseRunsForEachByte : Obligations.ExactlyOneCaseRunsForEachByte := by
  intro s b hrun
  refine ⟨decodeRx s.cfg s.context b, ?selected, decode_rxRequest s.cfg s.context b,
    ⟨_, exec_decodeRx hrun b⟩, ?unique⟩
  case selected =>
    simp only [decodeRx, RxContext.isAfterEscape_iff, RxContext.isIdle_iff]
  case unique =>
    rintro j hrx hbyte ⟨t, hexec⟩
    exact eq_decodeRx_of_exec_next hrx hbyte hexec

/-- Settles O12: the row applies in Idle, and `enterState` writes the four fields of R80 and no byte of `buf`. -/
theorem startDelimiterOpensAFrame : Obligations.StartDelimiterOpensAFrame := by
  intro s hrun hidle
  exact exec_eq_next_effect_of_running hrun rfl (RxContext.isIdle_iff.mpr hidle)

/-- Settles O14: a byte that is not reserved is an operand of the row, and the row applies in Idle. -/
theorem strayByteChangesNoState : Obligations.StrayByteChangesNoState := by
  intro s b hrun hidle hdelim hesc
  exact exec_eq_next_effect_of_running hrun (plainByte_of_ne hdelim hesc) (RxContext.isIdle_iff.mpr hidle)

/-- While the link runs, `STOP` goes through `enterState`, whatever the escape sub-state was (R118). -/
theorem effect_stop_esc {s : State} (hrun : s.link.running = true) : (effect .stop s).link.esc = false := by
  simp [effect, hrun]

/-- `RESET` leaves AfterEscape from any state (R155). -/
theorem effect_reset_esc (s : State) : (effect .reset s).link.esc = false := by
  simp [effect]

/-- Settles O17: the row applies in InFrame; `STOP` and `RESET` apply anywhere, and both clear `esc`. -/
theorem escapeIntroducerSetsEsc : Obligations.EscapeIntroducerSetsEsc := by
  intro s hrun hst hesc
  refine ⟨exec_eq_next_effect_of_running hrun rfl (RxContext.isInFrame_iff.mpr ⟨hst, hesc⟩), ?cleared⟩
  case cleared =>
    rintro i (rfl | rfl)
    · exact ⟨_, exec_eq_next_effect rfl rfl rfl, effect_stop_esc hrun⟩
    · exact ⟨_, exec_eq_next_effect rfl rfl rfl, effect_reset_esc _⟩

/-- Settles O18: the row applies in InFrame below twelve bytes, where the offered byte has room. -/
theorem dataByteIsAppended : Obligations.DataByteIsAppended := by
  intro s b hroom hrun hst hesc hdelim hescByte
  have happ : (Instr.rxbInframeData b).applies s.cfg s.context = true := by
    simp [Instr.applies, hst, hesc, hroom]
  calc exec (.rxbInframeData b) s
      = .next (offerByte b s) := exec_eq_next_effect_of_running hrun (plainByte_of_ne hdelim hescByte) happ
    _ = .next { s with link.buf := s.link.buf.set s.link.n b hroom, link.n := s.link.n + 1 } := by
        rw [offerByte_room hroom]

/-- Settles O22: a byte that is no substitute, `DELIM` and `ESC` included, is an operand of the row, and the row applies
in AfterEscape. -/
theorem invalidEscapeIsDropped : Obligations.InvalidEscapeIsDropped := by
  intro s b hrun hst hesc hsubD hsubE
  exact exec_eq_next_effect_of_running hrun (invalidSubstitute_of_ne hsubD hsubE)
    (RxContext.isAfterEscape_iff.mpr ⟨hst, hesc⟩)

end Sys2Proof.Machine
end

section
/-! PROOFS. Words and operations (spec/30_encoding.md sections 3, 5 and 7): decoding and encoding undo each other, and
the request word of a Frame has byte `k` at bits `8k+7` to `8k`. -/

namespace Sys2Proof

/-! ## The reserved values that a proof tells apart (R5) -/

theorem Cfg.delim_ne_esc (c : Cfg) : c.delim ≠ c.esc := by
  obtain ⟨h, -⟩ := c.distinct
  exact h

theorem Cfg.subD_ne_subE (c : Cfg) : c.subD ≠ c.subE := by
  obtain ⟨-, -, -, -, -, h⟩ := c.distinct
  exact h

/-! ## From an operation to its word and back -/

/-- The word of a well-formed operation fits its port, whichever operation it is. -/
theorem encode_word_lt (i : Instr) : Laws.EncodeFits.Statement i := by
  cases i with
  | rxbIdleDelim => exact Laws.EncodeFits.rxbIdleDelim
  | rxbIdleEsc => exact Laws.EncodeFits.rxbIdleEsc
  | rxbIdleOther b => exact Laws.EncodeFits.rxbIdleOther b
  | rxbInframeDelim => exact Laws.EncodeFits.rxbInframeDelim
  | rxbInframeEsc => exact Laws.EncodeFits.rxbInframeEsc
  | rxbInframeData b => exact Laws.EncodeFits.rxbInframeData b
  | rxbInframeOverflow b => exact Laws.EncodeFits.rxbInframeOverflow b
  | rxbAfterescSubd => exact Laws.EncodeFits.rxbAfterescSubd
  | rxbAfterescSube => exact Laws.EncodeFits.rxbAfterescSube
  | rxbAfterescInvalid b => exact Laws.EncodeFits.rxbAfterescInvalid b
  | encByteDelim => exact Laws.EncodeFits.encByteDelim
  | encByteEsc => exact Laws.EncodeFits.encByteEsc
  | encBytePlain d => exact Laws.EncodeFits.encBytePlain d
  | encFrame f => exact Laws.EncodeFits.encFrame f
  | encode f => exact Laws.EncodeFits.encode f
  | send f => exact Laws.EncodeFits.send f
  | register lid => exact Laws.EncodeFits.register lid
  | remove lid => exact Laws.EncodeFits.remove lid
  | dispatchDrain f => exact Laws.EncodeFits.dispatchDrain f
  | dispatchPersist f => exact Laws.EncodeFits.dispatchPersist f
  | deliver lid f => exact Laws.EncodeFits.deliver lid f
  | start => exact Laws.EncodeFits.start
  | stop => exact Laws.EncodeFits.stop
  | reset => exact Laws.EncodeFits.reset

/-- The word of an RX row is that of a received byte. -/
theorem encode_eq_rxRequest (c : Cfg) {i : Instr} (hrx : i.isRx = true) : ∃ b, encode c i = rxRequest b := by
  cases i with
  | rxbIdleDelim | rxbInframeDelim => exact ⟨c.delim, rfl⟩
  | rxbIdleEsc | rxbInframeEsc => exact ⟨c.esc, rfl⟩
  | rxbIdleOther b | rxbInframeData b | rxbInframeOverflow b | rxbAfterescInvalid b => exact ⟨b, rfl⟩
  | rxbAfterescSubd => exact ⟨c.subD, rfl⟩
  | rxbAfterescSube => exact ⟨c.subE, rfl⟩
  | _ => simp [Instr.isRx] at hrx

/-- A plain byte is neither `DELIM` nor `ESC`. -/
theorem plainByte_iff {c : Cfg} {b : Byte} : plainByte c b = true ↔ b ≠ c.delim ∧ b ≠ c.esc := by
  simp [plainByte, isReserved]

theorem lidInRange_iff {c : Cfg} {lid : Nat} : lidInRange c lid = true ↔ lid < 2 ^ c.lw := by
  simp [lidInRange]

/-- The DELIVER word keeps its two fields apart: the Frame fills the low 96 bits. -/
theorem deliverWord_fields (lid : Nat) (f : Frame) :
    (wordOfFrame f + 2 ^ 96 * lid) / 2 ^ 96 = lid ∧ frameOfWord (wordOfFrame f + 2 ^ 96 * lid) = f := by
  have hf := wordOfFrame_lt f
  constructor
  · omega
  · rw [← frameOfWord_mod, Nat.add_mul_mod_self_left, frameOfWord_mod, frameOfWord_wordOfFrame]

/-- Reading the word of an operation of any other port than RX gives the operation back. -/
theorem decodeFitting_encode {c : Cfg} (x : RxContext) {i : Instr} (hrx : i.isRx = false) (hwf : i.wf c = true)
    (happ : i.applies c x = true) : decodeFitting c x (encode c i).port (encode c i).word = i := by
  cases i with
  | encByteDelim => simp [encode, decodeFitting, decodeTxByte]
  | encByteEsc => simp [encode, decodeFitting, decodeTxByte, c.delim_ne_esc.symm]
  | encBytePlain d =>
    obtain ⟨hdelim, hesc⟩ := plainByte_iff.mp hwf
    simp [encode, decodeFitting, decodeTxByte, hdelim, hesc]
  | encFrame f | encode f | send f => simp [encode, decodeFitting]
  | register lid => simp [encode, decodeFitting, decodeBus]
  | remove lid =>
    have hrm : (2 * lid + 1) % 2 = 1 := by omega
    have hlid : (2 * lid + 1) / 2 = lid := by omega
    simp [encode, decodeFitting, decodeBus, hrm, hlid]
  | dispatchDrain f =>
    have hpersist : c.persist = false := by simpa [Instr.applies] using happ
    simp [encode, decodeFitting, hpersist]
  | dispatchPersist f =>
    have hpersist : c.persist = true := happ
    simp [encode, decodeFitting, hpersist]
  | deliver lid f =>
    obtain ⟨hlid, hframe⟩ := deliverWord_fields lid f
    simp only [encode, decodeFitting, hlid, hframe]
  | start | stop => simp [encode, decodeFitting, decodeCtl]
  | reset => rfl
  | _ => simp [Instr.isRx] at hrx

/-- Settles O2: an RX row is the one R87 selects for its byte, and every other port's word is read field by field. -/
theorem decodingAnEncodedOperationGivesItBack : Obligations.DecodingAnEncodedOperationGivesItBack := by
  intro c x i hwf happ
  cases hrx : i.isRx with
  | true =>
    obtain ⟨b, hb⟩ := encode_eq_rxRequest c hrx
    rw [hb, decode_rxRequest, decodeRx_of_applies hrx hb hwf happ]
  | false => rw [decode, if_pos (encode_word_lt i c hwf), decodeFitting_encode x hrx hwf happ]

/-! ## From a word to its operation and back -/

theorem decode_eq_ok_iff {c : Cfg} {x : RxContext} {r : Request} {i : Instr} :
    decode c x r = .ok i ↔ r.word < 2 ^ r.port.width c ∧ decodeFitting c x r.port r.word = i := by
  unfold decode
  split <;> simp_all

/-- What R53 selects for a data byte has that byte as its word and can carry it. -/
theorem decodeTxByte_spec (c : Cfg) (d : Byte) :
    encode c (decodeTxByte c d) = ⟨.txByte, d.toNat⟩ ∧ (decodeTxByte c d).wf c = true ∧
      ∀ x, (decodeTxByte c d).applies c x = true := by
  unfold decodeTxByte
  split
  · next h => simp [encode, Instr.wf, Instr.applies, h]
  · next hdelim =>
    split
    · next h => simp [encode, Instr.wf, Instr.applies, h]
    · next hesc => simp [encode, Instr.wf, Instr.applies, Machine.plainByte_of_ne hdelim hesc]

/-- What R61 selects for a BUS word has that word and a `lid` of `LW` bits. -/
theorem decodeBus_spec {c : Cfg} {w : Nat} (hw : w < 2 ^ (c.lw + 1)) :
    encode c (decodeBus w) = ⟨.bus, w⟩ ∧ (decodeBus w).wf c = true ∧ ∀ x, (decodeBus w).applies c x = true := by
  have hpow : (2 : Nat) ^ (c.lw + 1) = 2 * 2 ^ c.lw := pow_succ' 2 c.lw
  have hlid : lidInRange c (w / 2) = true := lidInRange_iff.mpr (by omega)
  unfold decodeBus
  split
  · refine ⟨?_, hlid, fun _ => rfl⟩
    simp only [encode, Request.mk.injEq, true_and]
    omega
  · refine ⟨?_, hlid, fun _ => rfl⟩
    simp only [encode, Request.mk.injEq, true_and]
    omega

theorem decodeCtl_spec {c : Cfg} {w : Nat} (hw : w < 2) :
    encode c (decodeCtl w) = ⟨.ctl, w⟩ ∧ (decodeCtl w).wf c = true ∧ ∀ x, (decodeCtl w).applies c x = true := by
  unfold decodeCtl
  split
  · refine ⟨?_, rfl, fun _ => rfl⟩
    simp only [encode, Request.mk.injEq, true_and]
    omega
  · refine ⟨?_, rfl, fun _ => rfl⟩
    simp only [encode, Request.mk.injEq, true_and]
    omega

/-- A Frame word that fits its 96 bits is the word of the Frame it carries. -/
theorem wordOfFrame_frameOfWord_of_lt {w : Nat} (hw : w < 2 ^ 96) : wordOfFrame (frameOfWord w) = w := by
  rw [wordOfFrame_frameOfWord, Nat.mod_eq_of_lt hw]

/-- What a port's fitting word is read as has that word, an operand its row can carry, and a row that applies. -/
theorem decodeFitting_spec {c : Cfg} (x : RxContext) {p : Port} {w : Nat} (hw : w < 2 ^ p.width c) :
    encode c (decodeFitting c x p w) = ⟨p, w⟩ ∧ (decodeFitting c x p w).wf c = true ∧
      (decodeFitting c x p w).applies c x = true := by
  cases p with
  | rx =>
    obtain ⟨-, hword, hwf, happ⟩ := decodeRx_spec c x (BitVec.ofNat 8 w)
    refine ⟨?_, hwf, happ⟩
    rw [decodeFitting, hword, rxRequest, BitVec.toNat_ofNat, Nat.mod_eq_of_lt (show w < 2 ^ 8 from hw)]
  | send | func | txFrame =>
    exact ⟨by simp only [decodeFitting, encode, wordOfFrame_frameOfWord_of_lt hw], rfl, rfl⟩
  | bus =>
    obtain ⟨hword, hwf, happ⟩ := decodeBus_spec hw
    exact ⟨hword, hwf, happ x⟩
  | ctl =>
    obtain ⟨hword, hwf, happ⟩ := decodeCtl_spec (c := c) hw
    exact ⟨hword, hwf, happ x⟩
  | rst =>
    have hzero : w = 0 := by simpa [Port.width] using hw
    exact ⟨by rw [hzero]; rfl, rfl, rfl⟩
  | txByte =>
    obtain ⟨hword, hwf, happ⟩ := decodeTxByte_spec c (BitVec.ofNat 8 w)
    refine ⟨?_, hwf, happ x⟩
    rw [decodeFitting, hword, BitVec.toNat_ofNat, Nat.mod_eq_of_lt (show w < 2 ^ 8 from hw)]
  | deliver =>
    have hpow : (2 : Nat) ^ (c.lw + 96) = 2 ^ 96 * 2 ^ c.lw := by rw [pow_add, Nat.mul_comm]
    have hlid : w / 2 ^ 96 < 2 ^ c.lw := Nat.div_lt_of_lt_mul (hpow ▸ hw)
    refine ⟨?_, lidInRange_iff.mpr hlid, rfl⟩
    simp only [decodeFitting, encode, wordOfFrame_frameOfWord, Nat.mod_add_div]
  | internal =>
    have hword := wordOfFrame_frameOfWord_of_lt hw
    cases hpersist : c.persist <;> simp [decodeFitting, encode, Instr.wf, Instr.applies, hpersist, hword]

/-- Settles O3: the word that decodes fits its port, and every port's reading is undone by `encode`. -/
theorem eachWordIsTheWordOfItsOperation : Obligations.EachWordIsTheWordOfItsOperation := by
  intro c x r i hdecode
  obtain ⟨hfits, rfl⟩ := decode_eq_ok_iff.mp hdecode
  exact decodeFitting_spec x hfits

/-! ## The bytes of a Frame's word -/

/-- Byte `k` of a word stands above the `k` bytes before it (R60). -/
theorem wordOfBytes_div_mod (bs : List Byte) (k : Nat) (h : k < bs.length) :
    wordOfBytes bs / 256 ^ k % 256 = bs[k].toNat := by
  induction bs generalizing k with
  | nil => simp at h
  | cons b bs ih =>
    have hb := b.isLt
    cases k with
    | zero =>
      simp only [wordOfBytes, pow_zero, Nat.div_one, List.getElem_cons_zero]
      omega
    | succ k =>
      have hshift : (b.toNat + 256 * wordOfBytes bs) / 256 = wordOfBytes bs := by omega
      rw [wordOfBytes, pow_succ', ← Nat.div_div_eq_div_mul, hshift]
      exact ih k (by simpa using h)

/-- Bits `8k+7` to `8k` of a Frame's request word. -/
theorem extractLsb'_wordOfFrame (f : Frame) {k : Nat} (h : k < 12) :
    (BitVec.ofNat 96 (wordOfFrame f)).extractLsb' (8 * k) 8 = f[k] := by
  have hbyte := wordOfBytes_div_mod f.toList k (by simpa using h)
  have hpow : (2 : Nat) ^ (8 * k) = 256 ^ k := by rw [pow_mul]; rfl
  apply BitVec.eq_of_toNat_eq
  rw [BitVec.extractLsb'_toNat, BitVec.toNat_ofNat, Nat.mod_eq_of_lt (wordOfFrame_lt f), Nat.shiftRight_eq_div_pow,
    hpow, ← Vector.getElem_toList (h := by simpa using h), ← hbyte]
  rfl

/-- The low 32 bits are the first four bytes, the last of them on top (R32). -/
theorem extractLsb'_zero_eq_append (w : FrameWord) :
    w.extractLsb' 0 32 = w.extractLsb' 24 8 ++ w.extractLsb' 16 8 ++ w.extractLsb' 8 8 ++ w.extractLsb' 0 8 := by
  rw [BitVec.extractLsb'_append_extractLsb'_eq_extractLsb' (by rfl),
    BitVec.extractLsb'_append_extractLsb'_eq_extractLsb' (by rfl),
    BitVec.extractLsb'_append_extractLsb'_eq_extractLsb' (by rfl)]

/-- Settles O4: byte by byte, then the four lowest bytes put together. -/
theorem frameWordsCarryByteKAtBits8K : Obligations.FrameWordsCarryByteKAtBits8K := by
  intro f
  have hbyte (k : Nat) (h : k < 12) := extractLsb'_wordOfFrame f h
  have h0 : (BitVec.ofNat 96 (wordOfFrame f)).extractLsb' 0 8 = f[0] := hbyte 0 (by decide)
  have h1 : (BitVec.ofNat 96 (wordOfFrame f)).extractLsb' 8 8 = f[1] := hbyte 1 (by decide)
  have h2 : (BitVec.ofNat 96 (wordOfFrame f)).extractLsb' 16 8 = f[2] := hbyte 2 (by decide)
  have h3 : (BitVec.ofNat 96 (wordOfFrame f)).extractLsb' 24 8 = f[3] := hbyte 3 (by decide)
  refine ⟨hbyte, ?idWord, frameOfWord_wordOfFrame f⟩
  case idWord =>
    rw [extractLsb'_zero_eq_append, h0, h1, h2, h3]
    rfl

/-! ## The tables' words -/

/-- Settles O1: twelve closed decodings, each computed. -/
theorem wordsOfTheTablesDecodeToTheirOperations : Obligations.WordsOfTheTablesDecodeToTheirOperations := by
  unfold Obligations.WordsOfTheTablesDecodeToTheirOperations
  decide

end Sys2Proof
end

section
/-! PROOFS. What every operation leaves unchanged (spec/10_state.md sections 2, 9 and 10): the shared operations' frames
composed, and what follows for the count, the buffer and the labels. -/

namespace Sys2Proof.Machine

/-! ## The frames of the shared operations -/

/-- Nothing but the listed parts differs, and the requests waiting at the ports stand. -/
structure ChangesOnly (ps : List Part) (s t : State) : Prop where
  inputs : t.inp = { s.inp with chanOk := t.inp.chanOk, stall := t.inp.stall, draws := t.inp.draws }
  parts : ∀ p : Part, p ∉ ps → p.same s t

theorem ChangesOnly.refl (ps : List Part) (s : State) : ChangesOnly ps s s :=
  ⟨rfl, fun p _ => by cases p <;> rfl⟩

theorem Part.same_trans {p : Part} {s t u : State} (hst : p.same s t) (htu : p.same t u) : p.same s u := by
  cases p <;> exact Eq.trans htu hst

/-- One operation after another changes only what either may. -/
theorem ChangesOnly.trans {ps : List Part} {s t u : State} (hst : ChangesOnly ps s t) (htu : ChangesOnly ps t u) :
    ChangesOnly ps s u := by
  refine ⟨?_, fun p hp => Part.same_trans (hst.parts p hp) (htu.parts p hp)⟩
  rw [htu.inputs, hst.inputs]

theorem ChangesOnly.mono {ps qs : List Part} {s t : State} (h : ChangesOnly ps s t) (hsub : ps ⊆ qs) :
    ChangesOnly qs s t :=
  ⟨h.inputs, fun p hp => h.parts p fun hmem => hp (hsub hmem)⟩

theorem raiseEvent_changesOnly (e : Event) (s : State) : ChangesOnly [.labels] s (raiseEvent e s) :=
  ⟨rfl, fun p hp => by cases p <;> simp_all [Part.same]⟩

theorem txEmit_changesOnly (bs : List Byte) (s : State) : ChangesOnly [.tx] s (txEmit bs s) :=
  ⟨rfl, fun p hp => by cases p <;> simp_all [Part.same]⟩

theorem respondSend_changesOnly (ok : Bool) (k : Nat) (s : State) : ChangesOnly [.sendResp] s (respondSend ok k s) :=
  ⟨rfl, fun p hp => by cases p <;> simp_all [Part.same]⟩

theorem respondBus_changesOnly (acc : Bool) (s : State) : ChangesOnly [.busAcc] s (respondBus acc s) :=
  ⟨rfl, fun p hp => by cases p <;> simp_all [Part.same]⟩

theorem returnEncoding_changesOnly (bs : List Byte) (s : State) : ChangesOnly [.encoded] s (returnEncoding bs s) :=
  ⟨rfl, fun p hp => by cases p <;> simp_all [Part.same]⟩

theorem emitEncoder_changesOnly (bs : List Byte) (s : State) : ChangesOnly [.encOut] s (emitEncoder bs s) :=
  ⟨rfl, fun p hp => by cases p <;> simp_all [Part.same]⟩

theorem drawChanOk_changesOnly (s : State) : ChangesOnly [.chanOk] s (drawChanOk s) :=
  ⟨rfl, fun p hp => by cases p <;> simp_all [Part.same]⟩

theorem drawBuf_changesOnly (s : State) : ChangesOnly [.buf] s (drawBuf s) :=
  ⟨rfl, fun p hp => by cases p <;> simp_all [Part.same]⟩

theorem enterState_changesOnly (d : DecoderState) (s : State) :
    ChangesOnly [.st, .esc, .n, .ovf] s (enterState d s) :=
  ⟨rfl, fun p hp => by cases p <;> simp_all [Part.same]⟩

theorem setEsc_changesOnly (v : Bool) (s : State) : ChangesOnly [.esc] s (setEsc v s) :=
  ⟨rfl, fun p hp => by cases p <;> simp_all [Part.same]⟩

theorem setRunning_changesOnly (v : Bool) (s : State) : ChangesOnly [.running] s (setRunning v s) :=
  ⟨rfl, fun p hp => by cases p <;> simp_all [Part.same]⟩

theorem setRegistry_changesOnly (r : List Nat) (s : State) : ChangesOnly [.reg] s (setRegistry r s) :=
  ⟨rfl, fun p hp => by cases p <;> simp_all [Part.same]⟩

/-- Below twelve bytes an append. -/
theorem offerByte_changesOnly_of_room {s : State} (h : s.link.n < 12) (v : Byte) :
    ChangesOnly [.buf, .n] s (offerByte v s) := by
  rw [offerByte_room h]
  exact ⟨rfl, fun p hp => by cases p <;> simp_all [Part.same]⟩

/-- At twelve bytes a drop. -/
theorem offerByte_changesOnly_of_full {s : State} (h : ¬ s.link.n < 12) (v : Byte) :
    ChangesOnly [.ovf, .labels] s (offerByte v s) := by
  rw [offerByte_full h]
  exact ⟨rfl, fun p hp => by cases p <;> simp_all [Part.same]⟩

theorem offerByte_changesOnly (v : Byte) (s : State) : ChangesOnly [.buf, .n, .ovf, .labels] s (offerByte v s) := by
  by_cases h : s.link.n < 12
  · exact (offerByte_changesOnly_of_room h v).mono (by decide)
  · exact (offerByte_changesOnly_of_full h v).mono (by decide)

theorem deliverFrame_changesOnly (lid : Nat) (f : Frame) (s : State) :
    ChangesOnly [.delivered, .stall, .stuck] s (deliverFrame lid f s) := by
  by_cases h : s.inp.stall = some 0
  · rw [deliverFrame_stalls h]
    exact ⟨rfl, fun p hp => by cases p <;> simp_all [Part.same]⟩
  · rw [deliverFrame_completes h]
    exact ⟨rfl, fun p hp => by cases p <;> simp_all [Part.same]⟩

theorem drainTo_changesOnly (f : Frame) (ls : List Nat) (s : State) :
    ChangesOnly [.reg, .delivered, .stall, .stuck] s (drainTo f ls s) := by
  rw [drainTo_eq]
  exact ⟨rfl, fun p hp => by cases p <;> simp_all [Part.same]⟩

theorem deliverAll_changesOnly (f : Frame) (ls : List Nat) (s : State) :
    ChangesOnly [.delivered, .stall, .stuck] s (deliverAll f ls s) := by
  rw [deliverAll_eq]
  exact ⟨rfl, fun p hp => by cases p <;> simp_all [Part.same]⟩

theorem sendFrame_changesOnly (f : Frame) (s : State) :
    ChangesOnly [.tx, .sendResp, .labels] s (sendFrame f s) := by
  unfold sendFrame
  split
  · exact ((txEmit_changesOnly _ s).mono (by decide)).trans ((respondSend_changesOnly _ _ _).mono (by decide))
  · exact ((raiseEvent_changesOnly _ s).mono (by decide)).trans ((respondSend_changesOnly _ _ _).mono (by decide))

theorem registerListener_changesOnly (lid : Nat) (s : State) :
    ChangesOnly [.reg, .busAcc] s (registerListener lid s) := by
  unfold registerListener
  split
  · exact ((setRegistry_changesOnly _ s).mono (by decide)).trans ((respondBus_changesOnly _ _).mono (by decide))
  · exact (respondBus_changesOnly _ s).mono (by decide)

/-- The closing delimiter applies outside AfterEscape only, so clearing `esc` changes nothing there (R83). -/
theorem closeFrame_changesOnly {s : State} (hesc : s.link.esc = false) :
    ChangesOnly [.st, .n, .ovf, .reg, .delivered, .stall, .stuck, .labels] s (closeFrame s) := by
  rw [closeFrame_eq]
  split
  · exact ⟨rfl, fun p hp => by cases p <;> simp_all [Part.same]⟩
  · exact ⟨rfl, fun p hp => by cases p <;> simp_all [Part.same]⟩

/-! ## The frame of every operation -/

theorem effect_start_of_running {s : State} (hrun : s.link.running = true) : effect .start s = s := by
  simp [effect, hrun]

theorem effect_start_of_stopped {s : State} (hrun : s.link.running = false) :
    effect .start s = enterState .idle (setRunning true s) := by
  simp [effect, hrun]

theorem effect_stop_of_running {s : State} (hrun : s.link.running = true) :
    effect .stop s = enterState .idle (setRunning false s) := by
  simp [effect, hrun]

theorem effect_stop_of_stopped {s : State} (hrun : s.link.running = false) : effect .stop s = s := by
  simp [effect, hrun]

/-- An operation changes only what its rule names as written. -/
theorem effect_changesOnly {i : Instr} {s : State} (hruns : runsIn i s = true) :
    ChangesOnly (writes i) s (effect i s) := by
  obtain ⟨-, -, happ⟩ := runsIn_iff.mp hruns
  cases i with
  | rxbIdleDelim => exact (enterState_changesOnly .inFrame s).mono (by decide)
  | rxbIdleEsc => exact raiseEvent_changesOnly _ s
  | rxbIdleOther b => exact raiseEvent_changesOnly _ s
  | rxbInframeDelim => exact closeFrame_changesOnly (RxContext.isInFrame_iff.mp happ).2
  | rxbInframeEsc => exact setEsc_changesOnly true s
  | rxbInframeData b =>
    have hroom : s.link.n < 12 := by
      simp only [Instr.applies, Bool.and_eq_true, decide_eq_true_eq] at happ
      exact happ.2
    exact offerByte_changesOnly_of_room hroom b
  | rxbInframeOverflow b =>
    have hfull : ¬ s.link.n < 12 := by
      simp only [Instr.applies, Bool.and_eq_true, Bool.not_eq_true', decide_eq_false_iff_not] at happ
      exact happ.2
    exact offerByte_changesOnly_of_full hfull b
  | rxbAfterescSubd | rxbAfterescSube =>
    exact ((setEsc_changesOnly false s).mono (by simp [writes])).trans
      ((offerByte_changesOnly _ _).mono (by simp [writes]))
  | rxbAfterescInvalid b =>
    exact ((setEsc_changesOnly false s).mono (by simp [writes])).trans
      ((raiseEvent_changesOnly _ _).mono (by simp [writes]))
  | encByteDelim | encByteEsc | encBytePlain d | encFrame f => exact emitEncoder_changesOnly _ s
  | encode f => exact returnEncoding_changesOnly _ s
  | send f =>
    exact ((sendFrame_changesOnly f s).mono (by simp [writes])).trans
      ((drawChanOk_changesOnly _).mono (by simp [writes]))
  | register lid => exact registerListener_changesOnly lid s
  | remove lid =>
    exact ((setRegistry_changesOnly _ s).mono (by simp [writes])).trans
      ((respondBus_changesOnly _ _).mono (by simp [writes]))
  | dispatchDrain f => exact drainTo_changesOnly f s.link.reg s
  | dispatchPersist f => exact deliverAll_changesOnly f s.link.reg s
  | deliver lid f => exact deliverFrame_changesOnly lid f s
  | start =>
    cases hrun : s.link.running with
    | true =>
      rw [effect_start_of_running hrun]
      exact .refl _ s
    | false =>
      rw [effect_start_of_stopped hrun]
      exact ((setRunning_changesOnly true s).mono (by decide)).trans ((enterState_changesOnly _ _).mono (by decide))
  | stop =>
    cases hrun : s.link.running with
    | true =>
      rw [effect_stop_of_running hrun]
      exact ((setRunning_changesOnly false s).mono (by decide)).trans ((enterState_changesOnly _ _).mono (by decide))
    | false =>
      rw [effect_stop_of_stopped hrun]
      exact .refl _ s
  | reset =>
    have hreg := (setRegistry_changesOnly [] s).mono (qs := writes .reset) (by decide)
    have hrun := (setRunning_changesOnly false (setRegistry [] s)).mono (qs := writes .reset) (by decide)
    have hidle := (enterState_changesOnly .idle (setRunning false (setRegistry [] s))).mono (qs := writes .reset)
      (by decide)
    exact ((hreg.trans hrun).trans hidle).trans ((drawBuf_changesOnly _).mono (by decide))

/-- Settles O45: the frames of the shared operations, composed along each operation's rule. -/
theorem operationsChangeOnlyWhatTheirRuleWrites : Obligations.OperationsChangeOnlyWhatTheirRuleWrites := by
  intro i s t hexec
  obtain ⟨hruns, rfl⟩ := exec_next_iff.mp hexec
  obtain ⟨hinputs, hparts⟩ := effect_changesOnly hruns
  exact ⟨effect_cfg i s, hinputs, hparts⟩

/-- Settles O44: `exec` answers a next state exactly where `runsIn` holds, and refuses elsewhere. -/
theorem operationsRunExactlyWhereTheirRowApplies : Obligations.OperationsRunExactlyWhereTheirRowApplies := by
  intro i s
  rw [← runsIn_iff, exec_eq]
  by_cases hruns : runsIn i s = true <;> simp [hruns]

/-! ## The count, the buffer and the labels -/

/-- What offering a byte leaves of the count. -/
theorem offerByte_n (v : Byte) (s : State) :
    (offerByte v s).link.n = if s.link.n < 12 then s.link.n + 1 else s.link.n := by
  obtain ⟨h, e⟩ | ⟨h, e⟩ := offerByte_cases v s <;> simp [e, h]

theorem offerByte_n_le {s : State} (hle : s.link.n ≤ 12) (v : Byte) : (offerByte v s).link.n ≤ 12 := by
  rw [offerByte_n]
  split <;> omega

/-- Only the byte at the count can differ once a byte was offered. -/
theorem offerByte_getElem_ne {v : Byte} {s : State} {k : Nat} (hk : k < 12)
    (hne : (offerByte v s).link.buf[k] ≠ s.link.buf[k]) : k = s.link.n := by
  by_contra hkn
  obtain ⟨h, e⟩ | ⟨h, e⟩ := offerByte_cases v s
  · exact hne (by simp only [e]; exact Vector.getElem_set_ne h hk (Ne.symm hkn))
  · exact hne (by simp [e])

/-- Offering a byte raises at most the one label of an overflow. -/
theorem offerByte_labels (v : Byte) (s : State) :
    (offerByte v s).out.labels = s.out.labels ∨ (offerByte v s).out.labels = s.out.labels ++ [.overflow v] := by
  obtain ⟨h, e⟩ | ⟨h, e⟩ := offerByte_cases v s <;> simp [e]

theorem closeFrame_n (s : State) : (closeFrame s).link.n = 0 := by
  rw [closeFrame_eq]
  split <;> rfl

theorem closeFrame_labels (s : State) :
    (closeFrame s).out.labels = s.out.labels ∨
      (closeFrame s).out.labels = s.out.labels ++ [.frameLength s.link.n s.link.ovf] := by
  rw [closeFrame_eq]
  split
  · exact .inl rfl
  · exact .inr rfl

theorem sendFrame_labels (f : Frame) (s : State) :
    (sendFrame f s).out.labels = s.out.labels ∨ (sendFrame f s).out.labels = s.out.labels ++ [.channelFailure] := by
  unfold sendFrame
  split <;> simp

/-- A stopped decoder rests in Idle with nothing collected (R21, items 2 and 5). -/
theorem State.Inv.n_eq_zero_of_stopped {s : State} (hinv : s.Inv) (hrun : s.link.running = false) : s.link.n = 0 :=
  (hinv.idle_clear (hinv.stopped_idle hrun)).1

theorem effect_start_n {s : State} (hinv : s.Inv) : (effect .start s).link.n = s.link.n := by
  cases hrun : s.link.running with
  | true => rw [effect_start_of_running hrun]
  | false => rw [effect_start_of_stopped hrun, enterState_n, hinv.n_eq_zero_of_stopped hrun]

theorem effect_stop_n {s : State} (hinv : s.Inv) : (effect .stop s).link.n = 0 := by
  cases hrun : s.link.running with
  | true => rw [effect_stop_of_running hrun, enterState_n]
  | false => rw [effect_stop_of_stopped hrun, hinv.n_eq_zero_of_stopped hrun]

/-- The count never passes twelve (R12). -/
theorem effect_n_le {i : Instr} {s : State} (hruns : runsIn i s = true) (hle : s.link.n ≤ 12) :
    (effect i s).link.n ≤ 12 := by
  by_cases hwrites : Part.n ∈ writes i
  · cases i with
    | rxbIdleDelim | reset => exact Nat.zero_le 12
    | rxbInframeDelim => exact (closeFrame_n s).trans_le (Nat.zero_le 12)
    | rxbInframeData b => exact offerByte_n_le hle b
    | rxbAfterescSubd => exact offerByte_n_le (s := setEsc false s) hle s.cfg.delim
    | rxbAfterescSube => exact offerByte_n_le (s := setEsc false s) hle s.cfg.esc
    | start => cases hrun : s.link.running <;> simp [effect, hrun, hle]
    | stop => cases hrun : s.link.running <;> simp [effect, hrun, hle]
    | _ => simp [writes] at hwrites
  · exact ((effect_changesOnly hruns).parts .n hwrites).trans_le hle

/-- Settles O46: an operation that does not write the count leaves it, and the others are cases. -/
theorem countMovesByOneAppendOrToZero : Obligations.CountMovesByOneAppendOrToZero := by
  intro i s t hinv hexec
  obtain ⟨hruns, rfl⟩ := exec_next_iff.mp hexec
  refine ⟨effect_n_le hruns hinv.count_le, ?_⟩
  by_cases hwrites : Part.n ∈ writes i
  · cases i with
    | rxbIdleDelim => simp [effect]
    | rxbInframeDelim => simp [effect, closeFrame_n]
    | rxbInframeData b =>
      have hn := offerByte_n b s
      exact ⟨by simp, fun _ => hn, by simp⟩
    | rxbAfterescSubd =>
      have hn := offerByte_n s.cfg.delim (setEsc false s)
      exact ⟨by simp, fun _ => hn, by simp⟩
    | rxbAfterescSube =>
      have hn := offerByte_n s.cfg.esc (setEsc false s)
      exact ⟨by simp, fun _ => hn, by simp⟩
    | start => simp [effect_start_n hinv]
    | stop => simp [effect_stop_n hinv]
    | reset => simp [effect]
    | _ => simp [writes] at hwrites
  · have hn : (effect i s).link.n = s.link.n := (effect_changesOnly hruns).parts .n hwrites
    refine ⟨?cleared, ?raised, fun hne => absurd hn hne⟩
    case cleared => rintro (rfl | rfl | rfl | rfl) <;> simp [writes] at hwrites
    case raised => rintro (⟨b, rfl⟩ | rfl | rfl) <;> simp [writes] at hwrites

/-- Settles O47: the three appends are the only operations but `RESET` that write the buffer. -/
theorem bufferIsWrittenOnlyAtTheCount : Obligations.BufferIsWrittenOnlyAtTheCount := by
  intro i s t hexec hreset k hk hne
  obtain ⟨hruns, rfl⟩ := exec_next_iff.mp hexec
  by_cases hwrites : Part.buf ∈ writes i
  · cases i with
    | rxbInframeData b => exact ⟨offerByte_getElem_ne hk hne, .inl ⟨b, rfl⟩⟩
    | rxbAfterescSubd => exact ⟨offerByte_getElem_ne (s := setEsc false s) hk hne, .inr (.inl rfl)⟩
    | rxbAfterescSube => exact ⟨offerByte_getElem_ne (s := setEsc false s) hk hne, .inr (.inr rfl)⟩
    | reset => exact absurd rfl hreset
    | _ => simp [writes] at hwrites
  · have hbuf : (effect i s).link.buf = s.link.buf := (effect_changesOnly hruns).parts .buf hwrites
    exact absurd (by rw [hbuf]) hne

/-- Settles O52: an operation that does not write the labels leaves them, and each of the others raises at most one. -/
theorem atMostOneEventPerOperation : Obligations.AtMostOneEventPerOperation := by
  intro i s t hexec
  obtain ⟨hruns, rfl⟩ := exec_next_iff.mp hexec
  by_cases hwrites : Part.labels ∈ writes i
  · cases i with
    | rxbIdleEsc | rxbIdleOther b | rxbAfterescInvalid b => exact .inr ⟨_, rfl⟩
    | rxbInframeDelim => exact (closeFrame_labels s).imp_right fun h => ⟨_, h⟩
    | rxbInframeOverflow b => exact (offerByte_labels b s).imp_right fun h => ⟨_, h⟩
    | rxbAfterescSubd => exact (offerByte_labels s.cfg.delim (setEsc false s)).imp_right fun h => ⟨_, h⟩
    | rxbAfterescSube => exact (offerByte_labels s.cfg.esc (setEsc false s)).imp_right fun h => ⟨_, h⟩
    | send f => exact (sendFrame_labels f s).imp_right fun h => ⟨_, h⟩
    | _ => simp [writes] at hwrites
  · exact .inl ((effect_changesOnly hruns).parts .labels hwrites)

end Sys2Proof.Machine
end

section
/-! PROOFS. The invariant of spec/10_state.md R21: it holds after reset, and every operation that runs keeps it. -/

namespace Sys2Proof.Machine

theorem afterInvoking_sublist (c : Cfg) (r : List Nat) (m : Nat) : (afterInvoking c r m).Sublist r := by
  unfold afterInvoking
  split
  · exact .refl r
  · exact List.drop_sublist _ r

/-- Clearing the decoder keeps the invariant, into a frame only while the link runs (R80, R83, R117, R118). -/
theorem State.Inv.enterState {s : State} (h : s.Inv) {d : DecoderState} (hd : s.link.running = false → d = .idle) :
    (enterState d s).Inv :=
  h.of_cleared rfl rfl rfl rfl rfl hd

/-- Fewer entries keep the invariant. -/
theorem State.Inv.setRegistry {s : State} (h : s.Inv) {r : List Nat} (hr : r.Sublist s.link.reg) :
    (setRegistry r s).Inv :=
  h.of_sublist rfl rfl hr

/-- Inside a frame the escape flag may have either value (R21, item 3). -/
theorem State.Inv.setEsc {s : State} (h : s.Inv) (hst : s.link.st = .inFrame) (v : Bool) : (setEsc v s).Inv :=
  { count_le := h.count_le
    idle_clear := by simp [hst]
    esc_inFrame := fun _ => hst
    ovf_full := h.ovf_full
    stopped_idle := h.stopped_idle
    reg_le := h.reg_le
    lid_lt := h.lid_lt }

/-- An entry appended where there is room keeps the invariant (R21, item 6, R18). -/
theorem State.Inv.setRegistry_append {s : State} (h : s.Inv) {lid : Nat} (hlid : lid < 2 ^ s.cfg.lw)
    (hroom : registryHasRoom s.cfg s.link.reg = true) : (Machine.setRegistry (s.link.reg ++ [lid]) s).Inv := by
  rw [registryHasRoom_iff] at hroom
  refine ⟨h.count_le, h.idle_clear, h.esc_inFrame, h.ovf_full, h.stopped_idle, ?reg_le, ?lid_lt⟩
  case reg_le =>
    intro m hm
    simpa using hroom m hm
  case lid_lt =>
    intro l hl
    obtain hold | hnew := List.mem_append.mp hl
    · exact h.lid_lt l hold
    · exact List.mem_singleton.mp hnew ▸ hlid

theorem State.Inv.dispatch {s : State} (h : s.Inv) (f : Frame) : (dispatch f s).Inv := by
  rw [dispatch_eq]
  exact h.of_sublist rfl rfl (afterInvoking_sublist s.cfg s.link.reg _)

/-- A closing delimiter clears the decoder, and then perhaps dispatches (R83). -/
theorem State.Inv.closeFrame {s : State} (h : s.Inv) : (closeFrame s).Inv := by
  unfold Machine.closeFrame
  split
  · exact (h.enterState fun _ => rfl).dispatch _
  · exact (h.of_link (t := raiseEvent _ s) rfl rfl).enterState fun _ => rfl

theorem State.Inv.registerListener {s : State} (h : s.Inv) {lid : Nat} (hlid : lid < 2 ^ s.cfg.lw) :
    (registerListener lid s).Inv := by
  unfold Machine.registerListener
  split
  · next hroom => exact (h.setRegistry_append hlid hroom).of_link rfl rfl
  · exact h.of_link rfl rfl

theorem sendFrame_cfg (f : Frame) (s : State) : (sendFrame f s).cfg = s.cfg := by
  unfold sendFrame
  split <;> rfl

theorem sendFrame_link (f : Frame) (s : State) : (sendFrame f s).link = s.link := by
  unfold sendFrame
  split <;> rfl

/-- Every operation keeps the invariant where it runs. -/
theorem State.Inv.effect {i : Instr} {s : State} (h : s.Inv) (hruns : runsIn i s = true) : (effect i s).Inv := by
  obtain ⟨hrx, hwf, happ⟩ := runsIn_iff.mp hruns
  cases i with
  | rxbIdleDelim => exact h.enterState fun hstopped => by simp [hrx rfl] at hstopped
  | rxbIdleEsc | rxbIdleOther b => exact h.of_link rfl rfl
  | rxbInframeDelim => exact h.closeFrame
  | rxbInframeEsc => exact h.setEsc (RxContext.isInFrame_iff.mp happ).1 true
  | rxbInframeData b | rxbInframeOverflow b =>
    have hin : s.context.isInFrame = true := by
      simp only [Instr.applies, Bool.and_eq_true] at happ
      exact happ.1
    exact h.offerByte b (RxContext.isInFrame_iff.mp hin).1 (hrx rfl)
  | rxbAfterescSubd | rxbAfterescSube =>
    have hst : s.link.st = .inFrame := (RxContext.isAfterEscape_iff.mp happ).1
    exact (h.setEsc hst false).offerByte _ hst (hrx rfl)
  | rxbAfterescInvalid b =>
    exact (h.setEsc (RxContext.isAfterEscape_iff.mp happ).1 false).of_link rfl rfl
  | encByteDelim | encByteEsc | encBytePlain d | encFrame f | encode f => exact h.of_link rfl rfl
  | send f => exact h.of_link (sendFrame_cfg f s) (sendFrame_link f s)
  | register lid => exact h.registerListener (lidInRange_iff.mp hwf)
  | remove lid => exact (h.setRegistry (deleteOldest_sublist lid s.link.reg)).of_link rfl rfl
  | dispatchDrain f =>
    have hdrain : Machine.effect (.dispatchDrain f) s = drainTo f s.link.reg s := rfl
    rw [hdrain, drainTo_eq]
    exact h.of_sublist rfl rfl (List.drop_sublist _ _)
  | dispatchPersist f =>
    have hall : Machine.effect (.dispatchPersist f) s = deliverAll f s.link.reg s := rfl
    rw [hall, deliverAll_eq]
    exact h.of_link rfl rfl
  | deliver lid f => exact h.of_link (deliverFrame_cfg lid f s) (deliverFrame_link lid f s)
  | start =>
    cases hrun : s.link.running with
    | true => rwa [effect_start_of_running hrun]
    | false =>
      rw [effect_start_of_stopped hrun]
      exact h.of_cleared rfl rfl rfl rfl rfl fun _ => rfl
  | stop =>
    cases hrun : s.link.running with
    | true =>
      rw [effect_stop_of_running hrun]
      exact h.of_cleared rfl rfl rfl rfl rfl fun _ => rfl
    | false => rwa [effect_stop_of_stopped hrun]
  | reset => exact (h.setRegistry (List.nil_sublist _)).of_cleared rfl rfl rfl rfl rfl fun _ => rfl

/-- Settles O49: accepting a request touches neither the configuration nor the link state, and the operation then keeps
the invariant where it runs. -/
theorem invariantIsKeptByEveryStep : Obligations.InvariantIsKeptByEveryStep := by
  intro s t hinv hstep
  obtain ⟨-, rfl⟩ | ⟨p, i, -, -, hexec⟩ := step_next_cases hstep
  · exact hinv
  · obtain ⟨hruns, rfl⟩ := exec_next_iff.mp hexec
    have haccepted : (accept p s).Inv := hinv.of_link (accept_cfg p s) (accept_link p s)
    exact haccepted.effect hruns

/-- Settles O48: nothing is collected, registered or running after reset. -/
theorem invariantHoldsAfterReset : Obligations.InvariantHoldsAfterReset := by
  intro c
  exact
    { count_le := Nat.zero_le 12
      idle_clear := fun _ => ⟨rfl, rfl, rfl⟩
      esc_inFrame := by simp [State.resetWith, LinkState.reset]
      ovf_full := by simp [State.resetWith, LinkState.reset]
      stopped_idle := fun _ => rfl
      reg_le := fun m _ => Nat.zero_le m
      lid_lt := by simp [State.resetWith, LinkState.reset] }

/-- Settles O43: the values are those of `LinkState.reset`. -/
theorem stateAfterResetHasTheTabledValues : Obligations.StateAfterResetHasTheTabledValues := by
  intro c
  exact ⟨resetBuf, rfl, rfl⟩

end Sys2Proof.Machine
end

section
/-! PROOFS. The step and its ports (spec/20_memory.md R37 to R42, spec/43_link_control.md R115, R116,
spec/93_implementation_defined.md U10): which request is taken, what accepting it changes, and what stays presented. -/

namespace Sys2Proof.Machine

/-! ## Accepting a request -/

/-- Settles O6: `takeRequest` writes one queue, `drawPick` the choice and the counter. -/
theorem acceptingTakesOneRequestOffItsPort : Obligations.AcceptingTakesOneRequestOffItsPort := by
  intro s
  exact ⟨Config.nextPick s.inp.env s.inp.draws, rfl, rfl, rfl, rfl, rfl, rfl⟩

/-- Accepting at one port leaves what is presented at another. -/
theorem presented_accept_of_ne {p q : Port} (hne : p ≠ q) (s : State) : presented p (accept q s) = presented p s := by
  cases q <;> cases p <;> simp_all [presented, accept, takeRequest] <;> rfl

theorem accept_rx_of_ne {p : Port} (hne : p ≠ .rx) (s : State) : (accept p s).inp.rx = s.inp.rx := by
  cases p <;> simp_all [accept, takeRequest]

/-- Whatever port is accepted, the BUS words left are words that waited before. -/
theorem accept_bus_subset (p : Port) (s : State) : (accept p s).inp.bus ⊆ s.inp.bus := by
  cases p with
  | bus => exact List.tail_subset s.inp.bus
  | _ => exact List.Subset.refl _

/-- An operation leaves what is presented at the ports. -/
theorem presented_effect {i : Instr} {s : State} (hruns : runsIn i s = true) (p : Port) :
    presented p (effect i s) = presented p s := by
  have hinputs := (effect_changesOnly hruns).inputs
  cases p <;> simp only [presented] <;> rw [hinputs]

/-- What is presented at a port stays until it is taken there. -/
theorem presented_of_step {s t : State} (hstep : step s = .next t) {p : Port} (hp : granted s ≠ some p) :
    presented p t = presented p s := by
  obtain ⟨-, rfl⟩ | ⟨q, i, hq, -, hexec⟩ := step_next_cases hstep
  · rfl
  · obtain ⟨hruns, rfl⟩ := exec_next_iff.mp hexec
    have hne : p ≠ q := by
      rintro rfl
      exact hp hq
    rw [presented_effect hruns, presented_accept_of_ne hne]

/-- The receive stream stays as it is until a byte is taken. -/
theorem rx_of_step {s t : State} (hstep : step s = .next t) (hp : granted s ≠ some .rx) : t.inp.rx = s.inp.rx := by
  obtain ⟨-, rfl⟩ | ⟨q, i, hq, -, hexec⟩ := step_next_cases hstep
  · rfl
  · obtain ⟨hruns, rfl⟩ := exec_next_iff.mp hexec
    have hne : q ≠ .rx := by
      rintro rfl
      exact hp hq
    rw [(effect_changesOnly hruns).inputs]
    exact accept_rx_of_ne hne s

/-! ## Which port is ready -/

/-- A port is ready where a request stands and could be accepted. -/
theorem portReady_iff {s : State} {p : Port} :
    portReady s p = true ↔
      presented p s ≠ none ∧ (p = .rx → s.link.running = true) ∧ (p ≠ .send → s.stuck = none) := by
  have hrx : p ≠ .rx ∨ s.link.running = true ↔ (p = .rx → s.link.running = true) := by tauto
  have hsend : s.stuck = none ∨ p = .send ↔ (p ≠ .send → s.stuck = none) := by tauto
  rw [← hrx, ← hsend]
  simp [portReady, Option.isSome_iff_ne_none, and_assoc]

theorem mem_readyPorts_iff {s : State} {p : Port} : p ∈ readyPorts s ↔ portReady s p = true := by
  refine ⟨fun h => (List.mem_filter.mp h).2, fun h => List.mem_filter.mpr ⟨?_, h⟩⟩
  have hstands := (portReady_iff.mp h).1
  cases p with
  | rx | send | func | bus | ctl | rst => decide
  | txByte | txFrame | deliver | internal => exact absurd rfl hstands

/-- Where two or more ports are ready the choice indexes them; where one is, it is taken. -/
theorem granted_eq_getElem? {s : State} (hne : readyPorts s ≠ []) :
    granted s = (readyPorts s)[s.inp.pick % (readyPorts s).length]? := by
  unfold granted
  split
  · next h => exact absurd h hne
  · next q h => simp [h, Nat.mod_one]
  · next h => simp [h]

theorem granted_eq_none_iff {s : State} : granted s = none ↔ ∀ p, portReady s p = false := by
  have hnil : (∀ p, portReady s p = false) ↔ readyPorts s = [] := by
    simp [List.eq_nil_iff_forall_not_mem, mem_readyPorts_iff]
  rw [hnil]
  by_cases hne : readyPorts s = []
  · simp [granted, hne]
  · have hlt : s.inp.pick % (readyPorts s).length < (readyPorts s).length :=
      Nat.mod_lt _ (List.length_pos_of_ne_nil hne)
    simp [granted_eq_getElem? hne, hne, hlt]

/-- Settles O8: the choice that takes a ready port is its index among them. -/
theorem everyOrderOfReadyPortsIsAdmitted : Obligations.EveryOrderOfReadyPortsIsAdmitted := by
  intro s p
  refine ⟨granted_mem, fun hmem => ⟨(readyPorts s).idxOf p, ?_⟩⟩
  have hindex : (readyPorts s).idxOf p < (readyPorts s).length := List.idxOf_lt_length_iff.mpr hmem
  have hready : readyPorts { s with inp.pick := (readyPorts s).idxOf p } = readyPorts s := rfl
  rw [granted_eq_getElem? (by rw [hready]; exact List.ne_nil_of_mem hmem), hready, Nat.mod_eq_of_lt hindex]
  exact List.getElem?_idxOf hmem

/-- Settles O7: no byte is ready while stopped or stuck, and while running with nothing stuck a presented one is. -/
theorem bytesAreAcceptedOnlyWhileRunning : Obligations.BytesAreAcceptedOnlyWhileRunning := by
  intro s
  refine ⟨?kept, ?waits, ?ready⟩
  case kept =>
    intro t hblocked hstep
    refine rx_of_step hstep fun hgranted => ?_
    obtain ⟨-, hrun, hstuck⟩ := portReady_iff.mp (granted_ready hgranted)
    obtain hstopped | hheld := hblocked
    · simp [hrun rfl] at hstopped
    · exact hheld (hstuck (by decide))
  case waits =>
    intro hstopped hnone
    refine step_none (granted_eq_none_iff.mpr fun p => ?_)
    by_contra hready
    obtain ⟨hstands, hrun, -⟩ := portReady_iff.mp (by simpa using hready)
    by_cases hp : p = .rx
    · simp [hrun hp] at hstopped
    · exact hstands (hnone p hp)
  case ready =>
    intro hrun hstuck hwaits
    refine mem_readyPorts_iff.mpr (portReady_iff.mpr ⟨?_, fun _ => hrun, fun _ => hstuck⟩)
    simpa [presented] using hwaits

/-! ## Fair runs -/

/-- A request stays presented for as long as its port is not granted. -/
theorem presented_of_run {σ : Nat → State} (hrun : IsRun σ) {p : Port} {k : Nat}
    (hnever : ∀ j, k ≤ j → granted (σ j) ≠ some p) {j : Nat} (hj : k ≤ j) :
    presented p (σ j) = presented p (σ k) := by
  induction j, hj using Nat.le_induction with
  | base => rfl
  | succ j hj ih => rw [presented_of_step (hrun j) (hnever j hj), ih]

/-- Settles O9: a request never taken would stay presented, hence ready, so fairness takes it. -/
theorem fairRunsAcceptEveryRequest : Obligations.FairRunsAcceptEveryRequest := by
  intro σ p k hrun hfair hpresented hrunning hunstuck
  by_contra hnone
  have hnever : ∀ j, k ≤ j → granted (σ j) ≠ some p := fun j hj hgranted => hnone ⟨j, hj, hgranted⟩
  refine hnone (hfair p k fun j hj => portReady_iff.mpr ⟨?_, fun hp => hrunning hp j hj, fun hp => hunstuck hp j hj⟩)
  rwa [presented_of_run hrun hnever hj]

/-! ## What a step takes -/

/-- The request of a granted port whose word fits it is an operation that runs at the accepted state. -/
theorem step_of_granted {s : State} {p : Port} {w : Nat} (hgranted : granted s = some p)
    (hpresented : presented p s = some w) (hfits : w < 2 ^ p.width s.cfg) :
    step s = exec (decodeFitting s.cfg s.context p w) (accept p s) := by
  refine step_some hgranted ?_
  rw [fetchAt, hpresented]
  exact decode_eq_ok_iff.mpr ⟨hfits, rfl⟩

/-- Settles O5: at each port the head of the queue is the word, read by the port's format. -/
theorem stepRunsTheDecodedRequest : Obligations.StepRunsTheDecodedRequest := by
  intro s
  refine ⟨step_none, ?rx, ?send, ?func, ?bus, ?start, ?stop, ?rst⟩
  case rx =>
    intro b bs hgranted hqueue
    have hstep := step_of_granted (w := b.toNat) hgranted (by simp [presented, hqueue]) b.isLt
    rw [hstep, decodeFitting, BitVec.ofNat_toNat, BitVec.setWidth_eq]
  case send =>
    intro w ws hgranted hqueue
    exact step_of_granted (w := w.toNat) hgranted (by simp [presented, hqueue]) w.isLt
  case func =>
    intro w ws hgranted hqueue
    exact step_of_granted (w := w.toNat) hgranted (by simp [presented, hqueue]) w.isLt
  case bus =>
    intro w ws hgranted hqueue hfits
    exact step_of_granted hgranted (by simp [presented, hqueue]) hfits
  case start =>
    intro ws hgranted hqueue
    exact step_of_granted (w := 1) hgranted (by simp [presented, hqueue]) Nat.one_lt_two
  case stop =>
    intro ws hgranted hqueue
    exact step_of_granted (w := 0) hgranted (by simp [presented, hqueue]) Nat.two_pos
  case rst =>
    intro hgranted
    have hstands := (portReady_iff.mp (granted_ready hgranted)).1
    have hcount : s.inp.rst ≠ 0 := by simpa [presented] using hstands
    exact step_of_granted (w := 0) hgranted (by simp [presented, hcount]) Nat.one_pos

/-- A port's word fits it: by its type, and at the BUS port by hypothesis. -/
theorem presented_lt {s : State} (hports : s.PortsInRange) {p : Port} {w : Nat} (h : presented p s = some w) :
    w < 2 ^ p.width s.cfg := by
  cases p with
  | rx | send | func | ctl =>
    obtain ⟨b, -, rfl⟩ := Option.map_eq_some_iff.mp h
    exact b.isLt
  | bus => exact hports w (List.mem_of_mem_head? h)
  | rst =>
    have hzero : w = 0 := by
      by_cases hcount : s.inp.rst = 0
      · simp [presented, hcount] at h
      · simpa [presented, hcount, eq_comm] using h
    exact hzero ▸ Nat.one_pos
  | txByte | txFrame | deliver | internal => cases h

/-- An operation read at a port runs once its request was accepted, a received byte because the link was running. -/
theorem runsIn_accept {s : State} {p : Port} {w : Nat} (hready : portReady s p = true)
    (hfits : w < 2 ^ p.width s.cfg) : runsIn (decodeFitting s.cfg s.context p w) (accept p s) = true := by
  obtain ⟨hword, hwf, happ⟩ := decodeFitting_spec s.context hfits
  obtain ⟨-, hrun, -⟩ := portReady_iff.mp hready
  rw [runsIn_iff, accept_link, accept_cfg, accept_context]
  refine ⟨fun hrx => hrun ?_, hwf, happ⟩
  obtain ⟨b, hb⟩ := encode_eq_rxRequest s.cfg hrx
  exact congrArg Request.port (hword.symm.trans hb)

/-- A step with a port granted is the effect of the operation read there. -/
theorem step_eq_next_effect {s : State} (hports : s.PortsInRange) {p : Port} (hgranted : granted s = some p) :
    ∃ w, presented p s = some w ∧ w < 2 ^ p.width s.cfg ∧
      runsIn (decodeFitting s.cfg s.context p w) (accept p s) = true ∧
      step s = .next (effect (decodeFitting s.cfg s.context p w) (accept p s)) := by
  have hready := granted_ready hgranted
  obtain ⟨w, hw⟩ := Option.ne_none_iff_exists'.mp (portReady_iff.mp hready).1
  have hfits := presented_lt hports hw
  have hruns := runsIn_accept hready hfits
  exact ⟨w, hw, hfits, hruns, by rw [step_of_granted hgranted hw hfits, exec_next_iff]; exact ⟨hruns, rfl⟩⟩

/-- While a delivery is stuck nothing but a `SEND` is taken (U10). -/
theorem stuck_eq_none_of_granted {s : State} {p : Port} (hgranted : granted s = some p) (hne : p ≠ .send) :
    s.stuck = none := by
  obtain ⟨-, -, hstuck⟩ := portReady_iff.mp (granted_ready hgranted)
  exact hstuck hne

/-- While a delivery is stuck, a SEND is the one request that can be taken. -/
theorem granted_of_stuck {s : State} (hstuck : s.stuck ≠ none) :
    granted s = if s.inp.send = [] then none else some .send := by
  have honly : ∀ p, granted s = some p → p = .send := fun p hp => by
    by_contra hne
    exact hstuck (stuck_eq_none_of_granted hp hne)
  split
  · next hempty =>
    refine Option.eq_none_iff_forall_ne_some.mpr fun p hp => ?_
    have hstands := (portReady_iff.mp (granted_ready hp)).1
    simp [honly p hp, presented, hempty] at hstands
  · next hwaits =>
    have hready : portReady s .send = true :=
      portReady_iff.mpr ⟨by simpa [presented] using hwaits, nofun, fun h => absurd rfl h⟩
    have hsome : granted s ≠ none := fun hnone => by simp [granted_eq_none_iff.mp hnone] at hready
    obtain ⟨p, hp⟩ := Option.ne_none_iff_exists'.mp hsome
    rw [hp, honly p hp]

/-- A `SEND` reaches neither the link state nor a listener (R43). -/
theorem effect_send_untouched (f : Frame) (s : State) :
    (effect (.send f) s).stuck = s.stuck ∧ (effect (.send f) s).link = s.link ∧
      (effect (.send f) s).out.delivered = s.out.delivered := by
  have hframe := effect_changesOnly (i := .send f) (s := s) rfl
  exact ⟨hframe.parts .stuck (by simp [writes]), sendFrame_link f s, hframe.parts .delivered (by simp [writes])⟩

/-- A step keeps the width of the BUS words that wait. -/
theorem State.PortsInRange.effect_accept {s : State} (hports : s.PortsInRange) {i : Instr} {p : Port}
    (hruns : runsIn i (accept p s) = true) : (effect i (accept p s)).PortsInRange := by
  intro w hw
  rw [(effect_changesOnly hruns).inputs] at hw
  rw [effect_cfg, accept_cfg]
  exact hports w (accept_bus_subset p s hw)

/-- Settles O10: with nothing granted the state stands; what is granted runs, and where a delivery is stuck it is a
`SEND`. -/
theorem everyStepAnswersANextState : Obligations.EveryStepAnswersANextState := by
  intro s hports
  cases hgranted : granted s with
  | none =>
    exact ⟨s, step_none hgranted, hports, fun hstuck => ⟨hgranted ▸ granted_of_stuck hstuck, rfl, rfl, rfl⟩⟩
  | some p =>
    obtain ⟨w, -, -, hruns, hstep⟩ := step_eq_next_effect hports hgranted
    refine ⟨_, hstep, hports.effect_accept hruns, fun hstuck => ⟨hgranted ▸ granted_of_stuck hstuck, ?_⟩⟩
    have hsend : p = .send := by
      by_contra hne
      exact hstuck (stuck_eq_none_of_granted hgranted hne)
    subst p
    have huntouched := effect_send_untouched (frameOfWord w) (accept .send s)
    rw [accept_stuck, accept_link, accept_out] at huntouched
    exact huntouched

/-! ## Which step delivers -/

/-- The operation of a granted port has the presented word. -/
theorem encode_of_fetchAt {s : State} {p : Port} {i : Instr} (hgranted : granted s = some p)
    (hfetch : fetchAt p s = .ok i) : ∃ w, presented p s = some w ∧ encode s.cfg i = ⟨p, w⟩ := by
  obtain ⟨w, hw⟩ := Option.ne_none_iff_exists'.mp (portReady_iff.mp (granted_ready hgranted)).1
  rw [fetchAt, hw] at hfetch
  exact ⟨w, hw, (eachWordIsTheWordOfItsOperation _ _ _ _ hfetch).1⟩

/-- Of the operations that a port can carry, the closing delimiter alone delivers or gets stuck. -/
theorem eq_rxbInframeDelim_of_delivers {i : Instr} {s : State} {w : Nat}
    (hwrites : Part.delivered ∈ writes i ∨ Part.stuck ∈ writes i)
    (hpresented : presented (encode s.cfg i).port s = some w) : i = .rxbInframeDelim := by
  cases i with
  | rxbInframeDelim => rfl
  | dispatchDrain f | dispatchPersist f | deliver lid f => cases hpresented
  | _ => simp [writes] at hwrites

theorem head?_rx_of_presented {s : State} {b : Byte} (h : presented .rx s = some b.toNat) :
    s.inp.rx.head? = some b := by
  obtain ⟨a, ha, hab⟩ := Option.map_eq_some_iff.mp h
  rw [ha, BitVec.eq_of_toNat_eq hab]

/-- Settles O39: what changes the deliveries is a closing delimiter, and one that completes its frame. -/
theorem onlyACompleteFramesCloseDelivers : Obligations.OnlyACompleteFramesCloseDelivers := by
  intro s t hstep hchanged
  obtain ⟨-, rfl⟩ | ⟨p, i, hgranted, hfetch, hexec⟩ := step_next_cases hstep
  · simp at hchanged
  obtain ⟨hruns, rfl⟩ := exec_next_iff.mp hexec
  obtain ⟨w, hpresented, hword⟩ := encode_of_fetchAt hgranted hfetch
  have hframe := effect_changesOnly hruns
  have hwrites : Part.delivered ∈ writes i ∨ Part.stuck ∈ writes i := by
    by_contra hneither
    rw [not_or] at hneither
    obtain ⟨hdelivered, hstuck⟩ := hneither
    have hd : (effect i (accept p s)).out.delivered = s.out.delivered := by
      simpa [Part.same] using hframe.parts .delivered hdelivered
    have hs : (effect i (accept p s)).stuck = s.stuck := by simpa [Part.same] using hframe.parts .stuck hstuck
    simp [hd, hs] at hchanged
  have hport : (encode s.cfg i).port = p := congrArg Request.port hword
  obtain rfl := eq_rxbInframeDelim_of_delivers hwrites (hport ▸ hpresented)
  obtain rfl : p = .rx := hport.symm
  have hhead : s.inp.rx.head? = some s.cfg.delim := by
    rw [← show s.cfg.delim.toNat = w from congrArg Request.word hword] at hpresented
    exact head?_rx_of_presented hpresented
  obtain ⟨-, -, happ⟩ := runsIn_iff.mp hruns
  obtain ⟨hst, hesc⟩ := RxContext.isInFrame_iff.mp happ
  have hstuck := stuck_eq_none_of_granted hgranted (by decide)
  by_cases hcomplete : s.link.n = 12 ∧ (s.link.ovf = false ∨ s.cfg.longFrameEmits = true)
  · have hclose := closeFrame_eq (accept .rx s)
    rw [if_pos (by simpa using hcomplete)] at hclose
    obtain ⟨hn, hovf⟩ := hcomplete
    refine ⟨hstuck, hgranted, hhead, by simpa using hst, by simpa using hesc, hn, hovf, ?_⟩
    rw [effect, hclose]
    exact ⟨rfl, rfl, rfl, rfl, rfl, rfl⟩
  · have hclose := closeFrame_eq (accept .rx s)
    rw [if_neg (by simpa using hcomplete)] at hclose
    rw [effect, hclose] at hchanged
    simp at hchanged

end Sys2Proof.Machine
end

section
/-! PROOFS. The encoding as a code (spec/40_encoder.md R74, R75): reserved bytes are escaped, and the escaped bytes can
be read back. -/

namespace Sys2Proof.Machine

/-- The three forms in which a data byte leaves the encoder (R53). -/
theorem escapeByte_cases (c : Cfg) (b : Byte) :
    (b = c.delim ∧ escapeByte c b = [c.esc, c.subD]) ∨ (b = c.esc ∧ escapeByte c b = [c.esc, c.subE]) ∨
      (b ≠ c.delim ∧ b ≠ c.esc ∧ escapeByte c b = [b]) := by
  unfold escapeByte
  split
  · next h => exact .inl ⟨h, rfl⟩
  · next hdelim =>
    split
    · next h => exact .inr (.inl ⟨h, rfl⟩)
    · next hesc => exact .inr (.inr ⟨hdelim, hesc, rfl⟩)

/-! ## Reading the escaped bytes back -/

/-- The escaped form of the first byte, and what is after it, can be told from the bytes. -/
theorem escapeByte_append_inj {c : Cfg} {a b : Byte} {xs ys : List Byte}
    (h : escapeByte c a ++ xs = escapeByte c b ++ ys) : a = b ∧ xs = ys := by
  have hsub := c.subD_ne_subE
  obtain ⟨ha, ea⟩ | ⟨ha, ea⟩ | ⟨-, ha, ea⟩ := escapeByte_cases c a <;>
    obtain ⟨hb, eb⟩ | ⟨hb, eb⟩ | ⟨-, hb, eb⟩ := escapeByte_cases c b <;>
    simp only [ea, eb, List.cons_append, List.nil_append, List.cons.injEq, true_and] at h
  · exact ⟨ha.trans hb.symm, h⟩
  · exact absurd h.1 hsub
  · exact absurd h.1.symm hb
  · exact absurd h.1.symm hsub
  · exact ⟨ha.trans hb.symm, h⟩
  · exact absurd h.1.symm hb
  · exact absurd h.1 ha
  · exact absurd h.1 ha
  · exact h

theorem escapeByte_ne_nil (c : Cfg) (b : Byte) : escapeByte c b ≠ [] := by
  obtain ⟨-, e⟩ | ⟨-, e⟩ | ⟨-, -, e⟩ := escapeByte_cases c b <;> simp [e]

theorem escapeBytes_injective (c : Cfg) {as bs : List Byte} (h : escapeBytes c as = escapeBytes c bs) : as = bs := by
  induction as generalizing bs with
  | nil =>
    cases bs with
    | nil => rfl
    | cons b bs => simp [escapeBytes, escapeByte_ne_nil] at h
  | cons a as ih =>
    cases bs with
    | nil => simp [escapeBytes, escapeByte_ne_nil] at h
    | cons b bs =>
      obtain ⟨rfl, hrest⟩ := escapeByte_append_inj h
      rw [ih hrest]

/-- Settles O28: between the delimiters stand the escaped bytes, which give the Frame's bytes back. -/
theorem encodingIsInjective : Obligations.EncodingIsInjective := by
  intro c f g h
  have hbody : escapeBytes c f.toList = escapeBytes c g.toList := by simpa [encodeFrame] using h
  exact Vector.toList_inj.mp (escapeBytes_injective c hbody)

/-! ## Where the reserved bytes stand -/

/-- In escaped bytes, after `ESC` comes a substitute. -/
theorem substitute_after_esc (c : Cfg) (bs : List Byte) (k : Nat) (h : (escapeBytes c bs)[k]? = some c.esc) :
    (escapeBytes c bs)[k + 1]? = some c.subD ∨ (escapeBytes c bs)[k + 1]? = some c.subE := by
  obtain ⟨-, -, -, hsubD, hsubE, -⟩ := c.distinct
  induction bs generalizing k with
  | nil => simp [escapeBytes] at h
  | cons b bs ih =>
    obtain ⟨-, e⟩ | ⟨-, e⟩ | ⟨-, hesc, e⟩ := escapeByte_cases c b <;>
      simp only [escapeBytes, e, List.cons_append, List.nil_append] at h ⊢
    · match k with
      | 0 => simp
      | 1 => simp [hsubD.symm] at h
      | k + 2 => exact ih k (by simpa using h)
    · match k with
      | 0 => simp
      | 1 => simp [hsubE.symm] at h
      | k + 2 => exact ih k (by simpa using h)
    · match k with
      | 0 => simp [hesc] at h
      | k + 1 => exact ih k (by simpa using h)

/-- After the opening delimiter, `DELIM` stands only where the escaped bytes end. -/
theorem delim_after_escapeBytes (c : Cfg) (bs : List Byte) (k : Nat) :
    (escapeBytes c bs ++ [c.delim])[k]? = some c.delim ↔ k = (escapeBytes c bs).length := by
  obtain hlt | rfl | hgt := lt_trichotomy k (escapeBytes c bs).length
  · rw [List.getElem?_append_left hlt]
    refine iff_of_false (fun hdelim => ?_) hlt.ne
    exact delim_not_mem_escapeBytes c bs (List.mem_of_getElem? hdelim)
  · simp
  · refine iff_of_false ?_ hgt.ne'
    rw [List.getElem?_eq_none (by simp; omega)]
    simp

/-- Settles O27: the index is that of the opening delimiter or one past it, in the escaped bytes and their close. -/
theorem encodingEscapesEveryReservedByte : Obligations.EncodingEscapesEveryReservedByte := by
  intro c f k
  have hdistinct := c.delim_ne_esc
  cases k with
  | zero => simp [encodeFrame, hdistinct]
  | succ k =>
    simp only [encodeFrame, List.getElem?_cons_succ]
    refine ⟨?delim, fun hesc => ?substitute⟩
    case delim =>
      rw [delim_after_escapeBytes]
      simp
    case substitute =>
      obtain hlt | hge := Nat.lt_or_ge k (escapeBytes c f.toList).length
      · rw [List.getElem?_append_left hlt] at hesc
        have hsub := substitute_after_esc c f.toList k hesc
        have hlt' : k + 1 < (escapeBytes c f.toList).length := by
          by_contra hout
          rw [List.getElem?_eq_none (by omega)] at hsub
          simp at hsub
        rwa [List.getElem?_append_left hlt']
      · rw [List.getElem?_append_right hge, List.getElem?_singleton] at hesc
        split at hesc
        · exact absurd (Option.some.inj hesc) hdistinct
        · cases hesc

end Sys2Proof.Machine
end

section
/-! PROOFS. The rows of the decoder that the earlier sections leave (spec/41_decoder.md R81, R83, R86, R88, R89, R91),
and link control (spec/43_link_control.md R117, R118, spec/70_reset_and_hazards.md R155). -/

namespace Sys2Proof.Machine

/-! ## Stray and offered bytes -/

/-- Settles O13: the row applies in Idle, and raising a label is all it does. -/
theorem strayEscChangesNoState : Obligations.StrayEscChangesNoState := by
  intro s hrun hidle
  exact exec_eq_next_effect_of_running hrun rfl (RxContext.isIdle_iff.mpr hidle)

/-- Settles O19: the row applies in InFrame at twelve bytes, where the offered byte has no room. -/
theorem dataByteBeyondCapacityIsDropped : Obligations.DataByteBeyondCapacityIsDropped := by
  intro s b hrun hst hesc hn hdelim hescByte
  have hfull : ¬ s.link.n < 12 := by omega
  have happ : (Instr.rxbInframeOverflow b).applies s.cfg s.context = true := by
    simp [Instr.applies, hst, hesc, hn]
  calc exec (.rxbInframeOverflow b) s
      = .next (offerByte b s) := exec_eq_next_effect_of_running hrun (plainByte_of_ne hdelim hescByte) happ
    _ = .next { s with link.ovf := true, out.labels := s.out.labels ++ [.overflow b] } := by
        rw [offerByte_full hfull]
        rfl

/-- Leaving AfterEscape and offering a byte where there is room (R88, R89). -/
theorem offerByte_setEsc_room {s : State} (h : s.link.n < 12) (v : Byte) :
    offerByte v (setEsc false s) =
      { s with link.esc := false, link.buf := s.link.buf.set s.link.n v h, link.n := s.link.n + 1 } :=
  offerByte_room (s := setEsc false s) h v

/-- Leaving AfterEscape and offering a byte at twelve (R88, R89). -/
theorem offerByte_setEsc_full {s : State} (h : ¬ s.link.n < 12) (v : Byte) :
    offerByte v (setEsc false s) =
      { s with link.esc := false, link.ovf := true, out.labels := s.out.labels ++ [.overflow v] } :=
  offerByte_full (s := setEsc false s) h v

/-- Settles O20: the row applies in AfterEscape and offers `DELIM`. -/
theorem escapedDelimiterIsAppended : Obligations.EscapedDelimiterIsAppended := by
  intro s hrun hst hesc
  have hexec : exec .rxbAfterescSubd s = .next (offerByte s.cfg.delim (setEsc false s)) :=
    exec_eq_next_effect_of_running hrun rfl (RxContext.isAfterEscape_iff.mpr ⟨hst, hesc⟩)
  refine ⟨fun hroom => ?room, fun hn => ?full⟩
  case room => rw [hexec, offerByte_setEsc_room hroom]
  case full => rw [hexec, offerByte_setEsc_full (by omega)]

/-- Settles O21: the row applies in AfterEscape and offers `ESC`. -/
theorem escapedEscIsAppended : Obligations.EscapedEscIsAppended := by
  intro s hrun hst hesc
  have hexec : exec .rxbAfterescSube s = .next (offerByte s.cfg.esc (setEsc false s)) :=
    exec_eq_next_effect_of_running hrun rfl (RxContext.isAfterEscape_iff.mpr ⟨hst, hesc⟩)
  refine ⟨fun hroom => ?room, fun hn => ?full⟩
  case room => rw [hexec, offerByte_setEsc_room hroom]
  case full => rw [hexec, offerByte_setEsc_full (by omega)]

/-! ## The closing delimiter -/

/-- A dispatch that invoked every listener is a completed one. -/
theorem afterInvoking_length (c : Cfg) (r : List Nat) : afterInvoking c r r.length = afterDispatch c r := by
  rw [afterInvoking, afterDispatch, List.drop_eq_nil_of_le (Nat.le_succ r.length)]

/-- A completed frame whose listeners all complete: the buffer is delivered to each, from Idle (R83). -/
theorem closeFrame_of_complete {s : State} (hesc : s.link.esc = false)
    (hcomplete : s.link.n = 12 ∧ (s.link.ovf = false ∨ s.cfg.longFrameEmits = true))
    (hlisteners : ListenersComplete s s.link.reg.length) :
    closeFrame s =
      { s with link.st := .idle, link.n := 0, link.ovf := false, link.reg := afterDispatch s.cfg s.link.reg,
               inp.stall := s.inp.stall.map (· - s.link.reg.length),
               out.delivered := s.out.delivered ++ deliveriesOf s.link.reg s.link.buf } := by
  rw [closeFrame_eq, if_pos hcomplete, served_complete hlisteners, stuckAfter_complete hlisteners, List.take_length,
    afterInvoking_length, ← hesc]

/-- Any other frame is discarded (R83). -/
theorem closeFrame_of_incomplete {s : State} (hesc : s.link.esc = false)
    (hincomplete : ¬ (s.link.n = 12 ∧ (s.link.ovf = false ∨ s.cfg.longFrameEmits = true))) :
    closeFrame s =
      { s with link.st := .idle, link.n := 0, link.ovf := false,
               out.labels := s.out.labels ++ [.frameLength s.link.n s.link.ovf] } := by
  rw [closeFrame_eq, if_neg hincomplete, ← hesc]

theorem exec_rxbInframeDelim {s : State} (hrun : s.link.running = true) (hst : s.link.st = .inFrame)
    (hesc : s.link.esc = false) : exec .rxbInframeDelim s = .next (closeFrame s) :=
  exec_eq_next_effect_of_running hrun rfl (RxContext.isInFrame_iff.mpr ⟨hst, hesc⟩)

/-- Settles O15: the two outcomes of `closeFrame`. -/
theorem closingDelimiterEmitsOrDiscards : Obligations.ClosingDelimiterEmitsOrDiscards := by
  intro s hrun hst hesc
  rw [exec_rxbInframeDelim hrun hst hesc]
  refine ⟨fun hcomplete hlisteners => ?emits, fun hincomplete => ?discards⟩
  case emits =>
    rw [closeFrame_of_complete hesc hcomplete hlisteners]
    rfl
  case discards => rw [closeFrame_of_incomplete hesc hincomplete]

/-- The DISPATCH operation of the configured policy is `dispatch` (R91, R102, R103). -/
theorem exec_dispatch {s : State} {keeps : Bool} (hpersist : s.cfg.persist = keeps) (f : Frame) :
    exec (if keeps then .dispatchPersist f else .dispatchDrain f) s = .next (dispatch f s) := by
  cases keeps with
  | true =>
    have hdispatch : dispatch f s = deliverAll f s.link.reg s := by simp [dispatch, hpersist]
    rw [hdispatch]
    exact exec_eq_next_effect rfl rfl hpersist
  | false =>
    have hdispatch : dispatch f s = drainTo f s.link.reg s := by simp [dispatch, hpersist]
    rw [hdispatch]
    exact exec_eq_next_effect rfl rfl (by simp [Instr.applies, hpersist])

/-- Settles O16: the row and the operation end in the same `dispatch`, from Idle with the decoder cleared. -/
theorem completedFrameIsDispatchedFromIdle : Obligations.CompletedFrameIsDispatchedFromIdle := by
  intro s hrun hst hesc hn hovf
  have hcleared : enterState .idle s = { s with link.st := .idle, link.n := 0, link.ovf := false } := by
    rw [enterState, ← hesc]
  have hcompletes : completesFrame s.cfg s.link = true := by
    simpa [completesFrame, hn] using hovf
  have hclose : closeFrame s = dispatch s.link.buf (enterState .idle s) := by rw [closeFrame, if_pos hcompletes]
  refine ⟨_, exec_rxbInframeDelim hrun hst hesc, ?_⟩
  rw [← hcleared, hclose]
  exact exec_dispatch (s := enterState .idle s) rfl s.link.buf

/-! ## Link control -/

/-- Settles O40: `START` applies anywhere, and has its effect only while stopped. -/
theorem startRunsTheLink : Obligations.StartRunsTheLink := by
  intro s
  have hexec : exec .start s = .next (effect .start s) := exec_eq_next_effect rfl rfl rfl
  refine ⟨fun hrun => ?stopped, fun hrun => ?running⟩
  case stopped =>
    rw [hexec, effect_start_of_stopped hrun]
    rfl
  case running => rw [hexec, effect_start_of_running hrun]

/-- Settles O41: `STOP` applies anywhere, and has its effect only while running. -/
theorem stopEndsTheLink : Obligations.StopEndsTheLink := by
  intro s
  have hexec : exec .stop s = .next (effect .stop s) := exec_eq_next_effect rfl rfl rfl
  refine ⟨fun hrun => ?running, fun hrun => ?stopped⟩
  case running =>
    rw [hexec, effect_stop_of_running hrun]
    rfl
  case stopped => rw [hexec, effect_stop_of_stopped hrun]

/-- Settles O42: the buffer drawn is the free value, and the rest is written by the cleared decoder and registry. -/
theorem resetInstallsTheInitialValues : Obligations.ResetInstallsTheInitialValues := by
  intro s
  exact ⟨Config.unspecifiedBuf s.inp.env s.inp.draws, exec_eq_next_effect rfl rfl rfl⟩

end Sys2Proof.Machine
end

section
/-! PROOFS. The send path (spec/40_encoder.md R72, R73) and the registry with its dispatch (spec/42_framebus.md R100 to
R107, spec/30_encoding.md R62). -/

namespace Sys2Proof.Machine

/-! ## SEND -/

theorem exec_send (f : Frame) (s : State) : exec (.send f) s = .next (drawChanOk (sendFrame f s)) :=
  exec_eq_next_effect rfl rfl rfl

theorem sendFrame_of_ok {s : State} (hok : s.inp.chanOk = true) (f : Frame) :
    sendFrame f s = respondSend true (encodeFrame s.cfg f).length (txEmit (encodeFrame s.cfg f) s) := by
  rw [sendFrame, if_pos hok]

theorem sendFrame_of_failure {s : State} (hfail : s.inp.chanOk = false) (f : Frame) :
    sendFrame f s = respondSend false 0 (raiseEvent .channelFailure s) := by
  rw [sendFrame, if_neg (by simp [hfail])]

/-- The burst's length fits the five bits of `len` (R60, R71). -/
theorem encodeFrame_length_lt (c : Cfg) (f : Frame) : (encodeFrame c f).length < 2 ^ 5 := by
  have hlength := encodeFrame_length c f
  have hreserved := reservedCount_le_twelve c f
  omega

/-- Settles O29: the two branches of `sendFrame`, and then a new answer of the channel. -/
theorem sendWritesTheWholeBurstOrNothing : Obligations.SendWritesTheWholeBurstOrNothing := by
  intro s f
  rw [exec_send]
  refine ⟨fun hok => ⟨Config.nextChanOk s.inp.env s.inp.draws, ?burst, ?len⟩,
    fun hfail => ⟨Config.nextChanOk s.inp.env s.inp.draws, ?nothing⟩⟩
  case burst =>
    rw [sendFrame_of_ok hok]
    rfl
  case len => rw [BitVec.toNat_ofNat, Nat.mod_eq_of_lt (encodeFrame_length_lt s.cfg f)]
  case nothing =>
    rw [sendFrame_of_failure hfail]
    rfl

/-- A `SEND` reads no part of the link state. -/
theorem sendFrame_withLink (f : Frame) (s : State) (l : LinkState) :
    sendFrame f { s with link := l } = { sendFrame f s with link := l } := by
  cases hok : s.inp.chanOk with
  | true => rw [sendFrame_of_ok hok, sendFrame_of_ok (s := { s with link := l }) hok]; rfl
  | false => rw [sendFrame_of_failure hok, sendFrame_of_failure (s := { s with link := l }) hok]; rfl

/-- Settles O30: both rows run from every state and use the configuration, the channel's answer and the outputs only. -/
theorem sendAndEncodeUseNoLinkState : Obligations.SendAndEncodeUseNoLinkState := by
  rintro s f l i (rfl | rfl)
  · refine ⟨_, exec_send f s, sendFrame_link f s, ?_⟩
    rw [exec_send, sendFrame_withLink]
    rfl
  · exact ⟨_, exec_eq_next_effect rfl rfl rfl, rfl, exec_eq_next_effect rfl rfl rfl⟩

/-! ## REGISTER and REMOVE -/

theorem exec_register {s : State} {lid : Nat} (hlid : lid < 2 ^ s.cfg.lw) :
    exec (.register lid) s = .next (registerListener lid s) :=
  exec_eq_next_effect rfl (lidInRange_iff.mpr hlid) rfl

theorem registerListener_of_room {s : State} (hroom : ∀ m, s.cfg.lmax = some m → s.link.reg.length < m) (lid : Nat) :
    registerListener lid s = respondBus true (setRegistry (s.link.reg ++ [lid]) s) := by
  rw [registerListener, if_pos ((registryHasRoom_iff _ _).mpr hroom)]

theorem registerListener_of_full {s : State} {m : Nat} (hmax : s.cfg.lmax = some m) (hfull : m ≤ s.link.reg.length)
    (lid : Nat) : registerListener lid s = respondBus false s := by
  have hroom : ¬ registryHasRoom s.cfg s.link.reg = true := fun h =>
    absurd ((registryHasRoom_iff _ _).mp h m hmax) (Nat.not_lt.mpr hfull)
  rw [registerListener, if_neg hroom]

/-- Settles O32: the two branches of `registerListener`. -/
theorem registerAppendsUnlessFull : Obligations.RegisterAppendsUnlessFull := by
  intro s lid hlid
  rw [exec_register hlid]
  refine ⟨fun hroom => ?appends, fun m hmax hfull => ?refuses⟩
  case appends =>
    rw [registerListener_of_room hroom]
    rfl
  case refuses =>
    rw [registerListener_of_full hmax hfull]
    rfl

/-- Settles O33: `deleteOldest` stops at the first entry equal to `lid`, and finds none where there is none. -/
theorem removeDeletesTheOldestEntry : Obligations.RemoveDeletesTheOldestEntry := by
  intro s lid hlid
  have hexec : exec (.remove lid) s =
      .next (respondBus (decide (lid ∈ s.link.reg)) (setRegistry (deleteOldest lid s.link.reg) s)) :=
    exec_eq_next_effect rfl (lidInRange_iff.mpr hlid) rfl
  rw [hexec]
  refine ⟨fun older newer hreg holder => ?found, fun habsent => ?absent⟩
  case found =>
    have hmem : lid ∈ s.link.reg := by simp [hreg]
    rw [decide_eq_true hmem, hreg, deleteOldest_append holder]
    rfl
  case absent =>
    rw [decide_eq_false habsent, deleteOldest_of_not_mem habsent]
    rfl

/-! ## DISPATCH and DELIVER -/

/-- Settles O36: the delivery completes or the block is stuck in it. -/
theorem deliverIsOneTransaction : Obligations.DeliverIsOneTransaction := by
  intro s lid f hlid
  have hexec : exec (.deliver lid f) s = .next (deliverFrame lid f s) :=
    exec_eq_next_effect rfl (lidInRange_iff.mpr hlid) rfl
  rw [hexec]
  exact ⟨fun h => by rw [deliverFrame_completes h], fun h => by rw [deliverFrame_stalls h]⟩

/-- The DISPATCH operation of either policy that runs is the one of the configured policy. -/
theorem eq_dispatch_of_exec {s t : State} {f : Frame}
    (h : exec (.dispatchDrain f) s = .next t ∨ exec (.dispatchPersist f) s = .next t) : t = dispatch f s := by
  obtain h | h := h <;> obtain ⟨hruns, rfl⟩ := exec_next_iff.mp h <;> obtain ⟨-, -, happ⟩ := runsIn_iff.mp hruns
  · have hpersist : s.cfg.persist = false := by simpa [Instr.applies] using happ
    simp [effect, dispatch, hpersist]
  · have hpersist : s.cfg.persist = true := happ
    simp [effect, dispatch, hpersist]

/-- Settles O34: the configured policy drains, and a dispatch is complete or stuck at index `k`. -/
theorem drainingDispatchEmptiesTheRegistry : Obligations.DrainingDispatchEmptiesTheRegistry := by
  intro s f hpersist
  have hexec : exec (.dispatchDrain f) s = .next (dispatch f s) := exec_dispatch hpersist f
  rw [hexec]
  refine ⟨fun hcomplete => ?complete, fun k hk hstall => ?stalls⟩
  case complete => simp [dispatch_complete hcomplete, afterDispatch, hpersist, deliveriesOf]
  case stalls => simp [dispatch_stalls hk hstall, afterInvoking, hpersist, deliveriesOf]

/-- Settles O35: the configured policy keeps the registry, and a dispatch is complete or stuck at index `k`. -/
theorem persistentDispatchKeepsTheRegistry : Obligations.PersistentDispatchKeepsTheRegistry := by
  intro s f hpersist
  have hexec : exec (.dispatchPersist f) s = .next (dispatch f s) := exec_dispatch hpersist f
  rw [hexec]
  refine ⟨fun hcomplete => ?complete, fun k hk hstall => ?stalls⟩
  case complete => simp [dispatch_complete hcomplete, afterDispatch, hpersist, deliveriesOf]
  case stalls => simp [dispatch_stalls hk hstall, afterInvoking, hpersist, deliveriesOf]

theorem deliveriesOf_count (r : List Nat) (lid : Nat) (f : Frame) : (deliveriesOf r f).count ⟨lid, f⟩ = r.count lid :=
  List.count_map_of_injective r (fun l => (⟨l, f⟩ : Delivery)) (fun _ _ h => congrArg Delivery.lid h) lid

/-- Settles O37: the deliveries appended are `deliveriesOf` the registry, or of the entries before the listener that
never completes. -/
theorem eachEntryIsDeliveredOnce : Obligations.EachEntryIsDeliveredOnce := by
  intro s t f lid hexec
  rw [eq_dispatch_of_exec hexec]
  refine ⟨fun hcomplete => ?complete, fun k hk hstall => ?stalls⟩
  case complete =>
    rw [dispatch_complete hcomplete]
    refine ⟨rfl, deliveriesOf s.link.reg f, rfl, ?_, deliveriesOf_count s.link.reg lid f, fun k hk => ?_⟩
    · simp [deliveriesOf]
    · simp [deliveriesOf, hk]
  case stalls =>
    rw [dispatch_stalls hk hstall]
    exact ⟨rfl, rfl, rfl⟩

/-- What a registration into a registry `r` with room answers, and what it leaves for the next ones. -/
theorem exec_register_of_room {s : State} {r : List Nat} (hreg : s.link.reg = r) {lid : Nat}
    (hlid : lid < 2 ^ s.cfg.lw) (hroom : ∀ m, s.cfg.lmax = some m → r.length < m) :
    ∃ t, exec (.register lid) s = .next t ∧ t.link.reg = r ++ [lid] ∧ t.cfg = s.cfg ∧ t.inp = s.inp ∧
      t.out.delivered = s.out.delivered :=
  ⟨respondBus true (setRegistry (r ++ [lid]) s),
    by rw [exec_register hlid, registerListener_of_room (hreg ▸ hroom), hreg], rfl, rfl, rfl, rfl⟩

/-- Settles O38: three registrations into an empty registry with room, and one complete dispatch of the three. -/
theorem threeListenersAreInvokedInOrder : Obligations.ThreeListenersAreInvokedInOrder := by
  intro s l1 l2 l3 f hempty hlisteners hmax h1 h2 h3
  have hroom (k : Nat) (hk : k < 3) : ∀ m, s.cfg.lmax = some m → k < m := fun m hm => by
    have := hmax m hm
    omega
  obtain ⟨s1, e1, r1, c1, i1, d1⟩ := exec_register_of_room hempty h1 (hroom 0 (by decide))
  rw [← c1] at h2 h3 hroom
  obtain ⟨s2, e2, r2, c2, i2, d2⟩ := exec_register_of_room r1 h2 (hroom 1 (by decide))
  rw [← c2] at h3 hroom
  obtain ⟨s3, e3, r3, c3, i3, d3⟩ := exec_register_of_room r2 h3 (hroom 2 (by decide))
  have hcfg : s3.cfg = s.cfg := c3.trans (c2.trans c1)
  have hcomplete : ListenersComplete s3 s3.link.reg.length := by
    rw [r3, ListenersComplete, i3, i2, i1]
    exact hlisteners
  refine ⟨s1, s2, s3, _, e1, e2, e3, exec_dispatch (congrArg Cfg.persist hcfg) f, ?_⟩
  rw [dispatch_complete hcomplete, r3, d3, d2, d1, hcfg]
  exact ⟨rfl, rfl⟩

end Sys2Proof.Machine
end

section
/-! PROOFS. What nothing depends on: bytes of the buffer not collected (spec/10_state.md R11), the labels raised before
(spec/60_exceptions.md R130), and the place of `SEND` and `ENCODE` among the link's operations (spec/20_memory.md
R43). -/

namespace Sys2Proof.Machine

/-! ## Operations of the ports after a change they do not see -/

/-- REGISTER reads the configuration and the registry only. -/
theorem registerListener_comm {g : State → State} {s : State} {lid : Nat} (hcfg : (g s).cfg = s.cfg)
    (hreg : (g s).link.reg = s.link.reg)
    (happend : respondBus true (setRegistry (s.link.reg ++ [lid]) (g s)) =
      g (respondBus true (setRegistry (s.link.reg ++ [lid]) s)))
    (hrefuse : respondBus false (g s) = g (respondBus false s)) :
    registerListener lid (g s) = g (registerListener lid s) := by
  rw [registerListener, registerListener, hcfg, hreg]
  split
  · exact happend
  · exact hrefuse

/-- START reads `running` only. -/
theorem effect_start_comm {g : State → State} {s : State} (hrun : (g s).link.running = s.link.running)
    (hstart : enterState .idle (setRunning true (g s)) = g (enterState .idle (setRunning true s))) :
    effect .start (g s) = g (effect .start s) := by
  cases h : s.link.running with
  | true => rw [effect_start_of_running h, effect_start_of_running (hrun.trans h)]
  | false => rw [effect_start_of_stopped h, effect_start_of_stopped (hrun.trans h), hstart]

/-- STOP reads `running` only. -/
theorem effect_stop_comm {g : State → State} {s : State} (hrun : (g s).link.running = s.link.running)
    (hstop : enterState .idle (setRunning false (g s)) = g (enterState .idle (setRunning false s))) :
    effect .stop (g s) = g (effect .stop s) := by
  cases h : s.link.running with
  | true => rw [effect_stop_of_running h, effect_stop_of_running (hrun.trans h), hstop]
  | false => rw [effect_stop_of_stopped h, effect_stop_of_stopped (hrun.trans h)]

/-! ## The labels raised before -/

/-- The state with other labels raised before. -/
def withLabels (ls : List Event) (s : State) : State := { s with out.labels := ls }

theorem accept_withLabels (p : Port) (ls : List Event) (s : State) :
    accept p (withLabels ls s) = withLabels ls (accept p s) := by
  cases p <;> rfl

theorem offerByte_withLabels (v : Byte) (ls : List Event) (s : State) :
    ∃ ls', offerByte v (withLabels ls s) = withLabels ls' (offerByte v s) := by
  by_cases h : s.link.n < 12
  · rw [offerByte_room h, offerByte_room (s := withLabels ls s) h]
    exact ⟨ls, rfl⟩
  · rw [offerByte_full h, offerByte_full (s := withLabels ls s) h]
    exact ⟨ls ++ [.overflow v], rfl⟩

theorem closeFrame_withLabels (ls : List Event) (s : State) :
    ∃ ls', closeFrame (withLabels ls s) = withLabels ls' (closeFrame s) := by
  by_cases h : s.link.n = 12 ∧ (s.link.ovf = false ∨ s.cfg.longFrameEmits = true)
  · rw [closeFrame_eq s, closeFrame_eq (withLabels ls s), if_pos h, if_pos (by exact h)]
    exact ⟨ls, rfl⟩
  · rw [closeFrame_eq s, closeFrame_eq (withLabels ls s), if_neg h, if_neg (by exact h)]
    exact ⟨ls ++ [.frameLength s.link.n s.link.ovf], rfl⟩

theorem sendFrame_withLabels (f : Frame) (ls : List Event) (s : State) :
    ∃ ls', sendFrame f (withLabels ls s) = withLabels ls' (sendFrame f s) := by
  cases hok : s.inp.chanOk with
  | true =>
    rw [sendFrame_of_ok hok, sendFrame_of_ok (s := withLabels ls s) hok]
    exact ⟨ls, rfl⟩
  | false =>
    rw [sendFrame_of_failure hok, sendFrame_of_failure (s := withLabels ls s) hok]
    exact ⟨ls ++ [.channelFailure], rfl⟩

theorem deliverFrame_withLabels (lid : Nat) (f : Frame) (ls : List Event) (s : State) :
    deliverFrame lid f (withLabels ls s) = withLabels ls (deliverFrame lid f s) := by
  by_cases h : s.inp.stall = some 0
  · rw [deliverFrame_stalls h, deliverFrame_stalls (s := withLabels ls s) h]
    rfl
  · rw [deliverFrame_completes h, deliverFrame_completes (s := withLabels ls s) h]
    rfl

/-- No operation reads the labels raised before. -/
theorem effect_withLabels (i : Instr) (ls : List Event) (s : State) :
    ∃ ls', effect i (withLabels ls s) = withLabels ls' (effect i s) := by
  cases i with
  | rxbIdleDelim | rxbInframeEsc => exact ⟨ls, rfl⟩
  | rxbIdleEsc => exact ⟨ls ++ [.strayByte s.cfg.esc], rfl⟩
  | rxbIdleOther b => exact ⟨ls ++ [.strayByte b], rfl⟩
  | rxbInframeDelim => exact closeFrame_withLabels ls s
  | rxbInframeData b | rxbInframeOverflow b => exact offerByte_withLabels b ls s
  | rxbAfterescSubd => exact offerByte_withLabels s.cfg.delim ls (setEsc false s)
  | rxbAfterescSube => exact offerByte_withLabels s.cfg.esc ls (setEsc false s)
  | rxbAfterescInvalid b => exact ⟨ls ++ [.invalidEscape b], rfl⟩
  | encByteDelim | encByteEsc | encBytePlain d | encFrame f | encode f => exact ⟨ls, rfl⟩
  | send f =>
    obtain ⟨ls', h⟩ := sendFrame_withLabels f ls s
    exact ⟨ls', congrArg drawChanOk h⟩
  | register lid => exact ⟨ls, registerListener_comm (g := withLabels ls) rfl rfl rfl rfl⟩
  | remove lid => exact ⟨ls, rfl⟩
  | dispatchDrain f => exact ⟨ls, by simp only [effect, drainTo_eq]; rfl⟩
  | dispatchPersist f => exact ⟨ls, by simp only [effect, deliverAll_eq]; rfl⟩
  | deliver lid f => exact ⟨ls, deliverFrame_withLabels lid f ls s⟩
  | start => exact ⟨ls, effect_start_comm (g := withLabels ls) rfl rfl⟩
  | stop => exact ⟨ls, effect_stop_comm (g := withLabels ls) rfl rfl⟩
  | reset => exact ⟨ls, rfl⟩

/-- Settles O51: the grant, the fetch and the operation's row read no label, and neither does its effect. -/
theorem labelsAreUnobservable : Obligations.LabelsAreUnobservable := by
  intro s t ls hstep
  obtain ⟨hgranted, rfl⟩ | ⟨p, i, hgranted, hfetch, hexec⟩ := step_next_cases hstep
  · exact ⟨ls, step_none hgranted⟩
  · obtain ⟨hruns, rfl⟩ := exec_next_iff.mp hexec
    obtain ⟨ls', heffect⟩ := effect_withLabels i ls (accept p s)
    have hstep' : step (withLabels ls s) = exec i (accept p (withLabels ls s)) :=
      step_some (s := withLabels ls s) hgranted hfetch
    rw [accept_withLabels] at hstep'
    exact ⟨ls', hstep'.trans (exec_next_iff.mpr ⟨hruns, heffect.symm⟩)⟩

/-! ## Bytes of the buffer not collected -/

/-- The state with another buffer. -/
def withBuf (b : Frame) (s : State) : State := { s with link.buf := b }

/-- Two buffers agree on the bytes collected, those at index below `n` (R11). -/
def AgreeBelow (n : Nat) (a b : Frame) : Prop := ∀ (k : Nat) (h : k < 12), k < n → b[k] = a[k]

theorem sameButUncollected_withBuf {s : State} {b : Frame} (h : AgreeBelow s.link.n s.link.buf b) :
    SameButUncollected s (withBuf b s) :=
  ⟨rfl, h⟩

theorem AgreeBelow.zero (a b : Frame) : AgreeBelow 0 a b := fun k _ hk => absurd hk (Nat.not_lt_zero k)

/-- Buffers that agree on twelve bytes are equal. -/
theorem AgreeBelow.eq {a b : Frame} {n : Nat} (h : AgreeBelow n a b) (hn : 12 ≤ n) : b = a :=
  Vector.ext fun k hk => h k hk (hk.trans_le hn)

/-- Appending the same byte at the count keeps the agreement, one byte further. -/
theorem AgreeBelow.set {a b : Frame} {n : Nat} (h : AgreeBelow n a b) (hn : n < 12) (v : Byte) :
    AgreeBelow (n + 1) (a.set n v hn) (b.set n v hn) := by
  intro k hk hkn
  by_cases hkeq : n = k
  · subst hkeq
    simp
  · rw [Vector.getElem_set_ne hn hk hkeq, Vector.getElem_set_ne hn hk hkeq]
    exact h k hk (by omega)

theorem accept_withBuf (p : Port) (b : Frame) (s : State) : accept p (withBuf b s) = withBuf b (accept p s) := by
  cases p <;> rfl

theorem offerByte_withBuf {s : State} {b : Frame} (hroom : s.link.n < 12)
    (hagree : AgreeBelow s.link.n s.link.buf b) (v : Byte) :
    SameButUncollected (offerByte v s) (offerByte v (withBuf b s)) := by
  rw [offerByte_room hroom, offerByte_room (s := withBuf b s) hroom]
  exact ⟨rfl, hagree.set hroom v⟩

/-- A frame of fewer than twelve bytes is discarded, so its buffer is not read (R83). -/
theorem closeFrame_withBuf {s : State} (hroom : s.link.n < 12) (b : Frame) :
    closeFrame (withBuf b s) = withBuf b (closeFrame s) := by
  have hincomplete : ¬ (s.link.n = 12 ∧ (s.link.ovf = false ∨ s.cfg.longFrameEmits = true)) := by omega
  rw [closeFrame_eq s, closeFrame_eq (withBuf b s), if_neg hincomplete, if_neg (by exact hincomplete)]
  rfl

theorem sendFrame_withBuf (f : Frame) (b : Frame) (s : State) :
    sendFrame f (withBuf b s) = withBuf b (sendFrame f s) := by
  rw [withBuf, withBuf, sendFrame_link]
  exact sendFrame_withLink f s { s.link with buf := b }

theorem registerListener_collected (lid : Nat) (s : State) :
    (registerListener lid s).link.n = s.link.n ∧ (registerListener lid s).link.buf = s.link.buf := by
  have hframe := registerListener_changesOnly lid s
  exact ⟨hframe.parts .n (by decide), hframe.parts .buf (by decide)⟩

theorem deliverFrame_withBuf (lid : Nat) (f : Frame) (b : Frame) (s : State) :
    deliverFrame lid f (withBuf b s) = withBuf b (deliverFrame lid f s) := by
  by_cases h : s.inp.stall = some 0
  · rw [deliverFrame_stalls h, deliverFrame_stalls (s := withBuf b s) h]
    rfl
  · rw [deliverFrame_completes h, deliverFrame_completes (s := withBuf b s) h]
    rfl

/-- With fewer than twelve bytes collected, an operation reads only those collected. -/
theorem effect_withBuf (i : Instr) {s : State} {b : Frame} (hroom : s.link.n < 12)
    (hagree : AgreeBelow s.link.n s.link.buf b) : SameButUncollected (effect i s) (effect i (withBuf b s)) := by
  cases i with
  | rxbIdleDelim => exact ⟨rfl, AgreeBelow.zero _ _⟩
  | rxbIdleEsc | rxbIdleOther x | rxbInframeEsc | rxbAfterescInvalid x => exact ⟨rfl, hagree⟩
  | rxbInframeDelim =>
    simp only [effect, closeFrame_withBuf hroom]
    exact sameButUncollected_withBuf (closeFrame_n s ▸ AgreeBelow.zero _ _)
  | rxbInframeData x | rxbInframeOverflow x => exact offerByte_withBuf hroom hagree x
  | rxbAfterescSubd => exact offerByte_withBuf (s := setEsc false s) hroom hagree s.cfg.delim
  | rxbAfterescSube => exact offerByte_withBuf (s := setEsc false s) hroom hagree s.cfg.esc
  | encByteDelim | encByteEsc | encBytePlain d | encFrame f | encode f => exact ⟨rfl, hagree⟩
  | send f =>
    simp only [effect, sendFrame_withBuf]
    exact sameButUncollected_withBuf (s := drawChanOk (sendFrame f s)) (by simpa [sendFrame_link] using hagree)
  | register lid =>
    obtain ⟨hn, hbuf⟩ := registerListener_collected lid s
    have hcomm := registerListener_comm (g := withBuf b) (s := s) (lid := lid) rfl rfl rfl rfl
    simp only [effect, hcomm]
    exact sameButUncollected_withBuf (by rwa [hn, hbuf])
  | remove lid => exact ⟨rfl, hagree⟩
  | dispatchDrain f =>
    simp only [effect, drainTo_eq]
    exact ⟨rfl, hagree⟩
  | dispatchPersist f =>
    simp only [effect, deliverAll_eq]
    exact ⟨rfl, hagree⟩
  | deliver lid f =>
    simp only [effect, deliverFrame_withBuf]
    exact sameButUncollected_withBuf (by rwa [deliverFrame_link])
  | start =>
    cases hrun : s.link.running with
    | true =>
      rw [effect_start_of_running hrun, effect_start_of_running (by exact hrun)]
      exact ⟨rfl, hagree⟩
    | false =>
      rw [effect_start_of_stopped hrun, effect_start_of_stopped (by exact hrun)]
      exact ⟨rfl, AgreeBelow.zero _ _⟩
  | stop =>
    cases hrun : s.link.running with
    | true =>
      rw [effect_stop_of_running hrun, effect_stop_of_running (by exact hrun)]
      exact ⟨rfl, AgreeBelow.zero _ _⟩
    | false =>
      rw [effect_stop_of_stopped hrun, effect_stop_of_stopped (by exact hrun)]
      exact ⟨rfl, hagree⟩
  | reset => exact ⟨rfl, AgreeBelow.zero _ _⟩

/-- Settles O50: at twelve bytes the two states are one, and below twelve the operation taken reads the collected bytes
only. -/
theorem uncollectedBytesAreUnobservable : Obligations.UncollectedBytesAreUnobservable := by
  rintro s s' t ⟨hsame, hagree⟩ hstep
  obtain hroom | hfull := Nat.lt_or_ge s.link.n 12
  · generalize s'.link.buf = b at hsame hagree
    subst hsame
    obtain ⟨hgranted, rfl⟩ | ⟨p, i, hgranted, hfetch, hexec⟩ := step_next_cases hstep
    · exact ⟨_, step_none (s := withBuf b t) hgranted, sameButUncollected_withBuf hagree⟩
    · obtain ⟨hruns, rfl⟩ := exec_next_iff.mp hexec
      refine ⟨effect i (withBuf b (accept p s)), ?_, effect_withBuf i (by simpa using hroom) ?_⟩
      · have hstep' : step (withBuf b s) = exec i (accept p (withBuf b s)) :=
          step_some (s := withBuf b s) hgranted hfetch
        rw [accept_withBuf] at hstep'
        exact hstep'.trans (exec_next_iff.mpr ⟨hruns, rfl⟩)
      · rwa [accept_link]
  · have hbuf : s'.link.buf = s.link.buf := AgreeBelow.eq hagree hfull
    rw [hbuf] at hsame
    exact ⟨t, hsame ▸ hstep, rfl, fun _ _ _ => rfl⟩

/-! ## The place of SEND and ENCODE -/

/-- Two states that differ only in the order of the labels. -/
def SameUpToLabelOrder (s t : State) : Prop :=
  t = { s with out.labels := t.out.labels } ∧ t.out.labels.Perm s.out.labels

theorem sameUpToLabelOrder_of_eq {s t : State} (h : s = t) : SameUpToLabelOrder s t := h ▸ ⟨rfl, .refl _⟩

/-- What a `SEND` or an `ENCODE` puts out and draws. -/
structure Transmission where
  tx : List Byte
  sendResp : List SendResponse
  encoded : List (List Byte)
  labels : List Event
  chanOk : Bool
  draws : Nat

/-- The transmission made. -/
def transmit (x : Transmission) (s : State) : State :=
  { s with out.tx := s.out.tx ++ x.tx, out.sendResp := s.out.sendResp ++ x.sendResp,
           out.encoded := s.out.encoded ++ x.encoded, out.labels := s.out.labels ++ x.labels,
           inp.chanOk := x.chanOk, inp.draws := x.draws }

/-- R72's transmission of a Frame. -/
def sendTransmission (f : Frame) (s : State) : Transmission where
  tx := if s.inp.chanOk then encodeFrame s.cfg f else []
  sendResp := if s.inp.chanOk then [⟨true, BitVec.ofNat 5 (encodeFrame s.cfg f).length⟩] else [⟨false, 0⟩]
  encoded := []
  labels := if s.inp.chanOk then [] else [.channelFailure]
  chanOk := Config.nextChanOk s.inp.env s.inp.draws
  draws := s.inp.draws + 1

/-- R70's result, the only output of `ENCODE`. -/
def encodeTransmission (f : Frame) (s : State) : Transmission where
  tx := []
  sendResp := []
  encoded := [encodeFrame s.cfg f]
  labels := []
  chanOk := s.inp.chanOk
  draws := s.inp.draws

theorem effect_send_eq (f : Frame) (s : State) : effect (.send f) s = transmit (sendTransmission f s) s := by
  cases hok : s.inp.chanOk with
  | true => simp [effect, sendFrame_of_ok hok, transmit, sendTransmission, hok, drawChanOk, respondSend, txEmit]
  | false =>
    simp [effect, sendFrame_of_failure hok, transmit, sendTransmission, hok, drawChanOk, respondSend, raiseEvent]

theorem effect_encode_eq (f : Frame) (s : State) : effect (.encode f) s = transmit (encodeTransmission f s) s := by
  simp [effect, transmit, encodeTransmission, returnEncoding]

/-- The operations of the link that R43 names. -/
def isLinkOp : Instr → Bool
  | .register _ | .remove _ | .start | .stop => true
  | i => i.isRx

theorem isLinkOp_of_isRx {j : Instr} (hrx : j.isRx = true) : isLinkOp j = true := by
  unfold isLinkOp
  split <;> simp_all

/-- A label raised before the transmission's own or after it. -/
theorem raiseEvent_transmit (e : Event) (x : Transmission) (s : State) :
    SameUpToLabelOrder (raiseEvent e (transmit x s)) (transmit x (raiseEvent e s)) := by
  refine ⟨rfl, ?_⟩
  have hswap : ([e] ++ x.labels).Perm (x.labels ++ [e]) := List.perm_append_comm
  simpa [transmit] using hswap.append_left s.out.labels

theorem offerByte_transmit (v : Byte) (x : Transmission) (s : State) :
    SameUpToLabelOrder (offerByte v (transmit x s)) (transmit x (offerByte v s)) := by
  by_cases h : s.link.n < 12
  · rw [offerByte_room h, offerByte_room (s := transmit x s) h]
    exact ⟨rfl, .refl _⟩
  · rw [offerByte_full h, offerByte_full (s := transmit x s) h]
    exact raiseEvent_transmit (.overflow v) x { s with link.ovf := true }

theorem closeFrame_transmit (x : Transmission) (s : State) :
    SameUpToLabelOrder (closeFrame (transmit x s)) (transmit x (closeFrame s)) := by
  by_cases h : s.link.n = 12 ∧ (s.link.ovf = false ∨ s.cfg.longFrameEmits = true)
  · rw [closeFrame_eq s, closeFrame_eq (transmit x s), if_pos h, if_pos (by exact h)]
    exact ⟨rfl, .refl _⟩
  · rw [closeFrame_eq s, closeFrame_eq (transmit x s), if_neg h, if_neg (by exact h)]
    exact raiseEvent_transmit (.frameLength s.link.n s.link.ovf) x (enterState .idle s)

/-- An operation of the link and a transmission: the two orders differ in the order of the labels. -/
theorem effect_transmit {j : Instr} (hj : isLinkOp j = true) (x : Transmission) (s : State) :
    SameUpToLabelOrder (effect j (transmit x s)) (transmit x (effect j s)) := by
  cases j with
  | rxbIdleDelim | rxbInframeEsc | remove lid => exact ⟨rfl, .refl _⟩
  | rxbIdleEsc => exact raiseEvent_transmit (.strayByte s.cfg.esc) x s
  | rxbIdleOther b => exact raiseEvent_transmit (.strayByte b) x s
  | rxbInframeDelim => exact closeFrame_transmit x s
  | rxbInframeData b | rxbInframeOverflow b => exact offerByte_transmit b x s
  | rxbAfterescSubd => exact offerByte_transmit s.cfg.delim x (setEsc false s)
  | rxbAfterescSube => exact offerByte_transmit s.cfg.esc x (setEsc false s)
  | rxbAfterescInvalid b => exact raiseEvent_transmit (.invalidEscape b) x (setEsc false s)
  | register lid =>
    exact sameUpToLabelOrder_of_eq (registerListener_comm (g := transmit x) rfl rfl rfl rfl)
  | start => exact sameUpToLabelOrder_of_eq (effect_start_comm (g := transmit x) rfl rfl)
  | stop => exact sameUpToLabelOrder_of_eq (effect_stop_comm (g := transmit x) rfl rfl)
  | _ => simp [isLinkOp, Instr.isRx] at hj

theorem offerByte_inputs (v : Byte) (s : State) : (offerByte v s).inp = s.inp := by
  obtain ⟨_, e⟩ | ⟨_, e⟩ := offerByte_cases v s <;> simp [e]

/-- An operation of the link draws no free value (R40, R72). -/
theorem effect_linkOp_draws {j : Instr} (hj : isLinkOp j = true) (s : State) :
    (effect j s).inp.draws = s.inp.draws ∧ (effect j s).inp.chanOk = s.inp.chanOk ∧
      (effect j s).inp.env = s.inp.env := by
  cases j with
  | rxbIdleDelim | rxbIdleEsc | rxbIdleOther b | rxbInframeEsc | rxbAfterescInvalid b | remove lid =>
    exact ⟨rfl, rfl, rfl⟩
  | rxbInframeDelim =>
    simp only [effect, closeFrame_eq]
    split <;> exact ⟨rfl, rfl, rfl⟩
  | rxbInframeData b | rxbInframeOverflow b | rxbAfterescSubd | rxbAfterescSube => simp [effect, offerByte_inputs]
  | register lid =>
    simp only [effect, registerListener]
    split <;> exact ⟨rfl, rfl, rfl⟩
  | start => cases hrun : s.link.running <;> simp [effect, hrun]
  | stop => cases hrun : s.link.running <;> simp [effect, hrun]
  | _ => simp [isLinkOp, Instr.isRx] at hj

/-- So the transmission of a `SEND` is the same before it and after it, and that of an `ENCODE` too. -/
theorem transmission_after_linkOp {j : Instr} (hj : isLinkOp j = true) (f : Frame) (s : State) :
    sendTransmission f (effect j s) = sendTransmission f s ∧
      encodeTransmission f (effect j s) = encodeTransmission f s := by
  obtain ⟨hdraws, hok, henv⟩ := effect_linkOp_draws hj s
  simp [sendTransmission, encodeTransmission, effect_cfg, hdraws, hok, henv]

/-- Settles O31: the first operation is a transmission, which an operation of the link neither changes nor sees. -/
theorem sendAndEncodeCommuteWithTheLink : Obligations.SendAndEncodeCommuteWithTheLink := by
  intro s a b f i j hi hj hexec1 hexec2
  have hlink : isLinkOp j = true := by
    obtain hrx | ⟨l, rfl⟩ | ⟨l, rfl⟩ | rfl | rfl := hj
    · exact isLinkOp_of_isRx hrx
    all_goals rfl
  obtain ⟨-, ha⟩ := exec_next_iff.mp hexec1
  obtain ⟨hruns, rfl⟩ := exec_next_iff.mp hexec2
  obtain ⟨hsend, hencode⟩ := transmission_after_linkOp hlink f s
  obtain ⟨x, hbefore, hafter⟩ :
      ∃ x, effect i s = transmit x s ∧ effect i (effect j s) = transmit x (effect j s) := by
    obtain rfl | rfl := hi
    · exact ⟨sendTransmission f s, effect_send_eq f s, hsend ▸ effect_send_eq f (effect j s)⟩
    · exact ⟨encodeTransmission f s, effect_encode_eq f s, hencode ▸ effect_encode_eq f (effect j s)⟩
  rw [ha, hbefore] at hruns ⊢
  have hi' : runsIn i (effect j s) = true := by obtain rfl | rfl := hi <;> rfl
  refine ⟨effect j s, transmit x (effect j s), exec_next_iff.mpr ⟨hruns, rfl⟩,
    exec_next_iff.mpr ⟨hi', hafter.symm⟩, ?_⟩
  exact effect_transmit hlink x s

end Sys2Proof.Machine
end

section
/-! PROOFS. Reading a stream (spec/41_decoder.md section 9): what a sequence of received bytes does to the decoder where
nothing else is presented, byte by byte and then for the escaped bytes of a frame. -/

namespace Sys2Proof.Machine

/-! ## One byte -/

/-- The state after the byte `b` at the head of the receive stream was taken. -/
def afterByte (b : Byte) (s : State) : State := effect (decodeRx s.cfg s.context b) (accept .rx s)

theorem decodeRx_of_idle {s : State} (hidle : s.link.st = .idle) (b : Byte) :
    decodeRx s.cfg s.context b =
      if b = s.cfg.delim then .rxbIdleDelim else if b = s.cfg.esc then .rxbIdleEsc else .rxbIdleOther b := by
  simp [decodeRx, RxContext.isAfterEscape, RxContext.isIdle, hidle]

theorem decodeRx_of_inFrame {s : State} (hst : s.link.st = .inFrame) (hesc : s.link.esc = false) (b : Byte) :
    decodeRx s.cfg s.context b =
      if b = s.cfg.delim then .rxbInframeDelim else if b = s.cfg.esc then .rxbInframeEsc
      else if s.link.n < 12 then .rxbInframeData b else .rxbInframeOverflow b := by
  simp [decodeRx, RxContext.isAfterEscape, RxContext.isIdle, hst, hesc]

theorem decodeRx_of_afterEscape {s : State} (hst : s.link.st = .inFrame) (hesc : s.link.esc = true) (b : Byte) :
    decodeRx s.cfg s.context b =
      if b = s.cfg.subD then .rxbAfterescSubd else if b = s.cfg.subE then .rxbAfterescSube
      else .rxbAfterescInvalid b := by
  simp [decodeRx, RxContext.isAfterEscape, hst, hesc]

theorem afterByte_open {s : State} (hidle : s.link.st = .idle) :
    afterByte s.cfg.delim s = enterState .inFrame (accept .rx s) := by
  rw [afterByte, decodeRx_of_idle hidle, if_pos rfl, effect]

theorem afterByte_stray {s : State} (hidle : s.link.st = .idle) {b : Byte} (hb : b ≠ s.cfg.delim) :
    afterByte b s = raiseEvent (.strayByte b) (accept .rx s) := by
  rw [afterByte, decodeRx_of_idle hidle, if_neg hb]
  split
  · next hesc => rw [effect, hesc, accept_cfg]
  · rw [effect]

theorem afterByte_close {s : State} (hst : s.link.st = .inFrame) (hesc : s.link.esc = false) :
    afterByte s.cfg.delim s = closeFrame (accept .rx s) := by
  rw [afterByte, decodeRx_of_inFrame hst hesc, if_pos rfl, effect]

theorem afterByte_esc {s : State} (hst : s.link.st = .inFrame) (hesc : s.link.esc = false) :
    afterByte s.cfg.esc s = setEsc true (accept .rx s) := by
  rw [afterByte, decodeRx_of_inFrame hst hesc, if_neg s.cfg.delim_ne_esc.symm, if_pos rfl, effect]

theorem afterByte_plain {s : State} (hst : s.link.st = .inFrame) (hesc : s.link.esc = false) {b : Byte}
    (hdelim : b ≠ s.cfg.delim) (hb : b ≠ s.cfg.esc) : afterByte b s = offerByte b (accept .rx s) := by
  rw [afterByte, decodeRx_of_inFrame hst hesc, if_neg hdelim, if_neg hb]
  split <;> rw [effect]

theorem afterByte_subD {s : State} (hst : s.link.st = .inFrame) (hesc : s.link.esc = true) :
    afterByte s.cfg.subD s = offerByte s.cfg.delim (setEsc false (accept .rx s)) := by
  rw [afterByte, decodeRx_of_afterEscape hst hesc, if_pos rfl, effect, accept_cfg]

theorem afterByte_subE {s : State} (hst : s.link.st = .inFrame) (hesc : s.link.esc = true) :
    afterByte s.cfg.subE s = offerByte s.cfg.esc (setEsc false (accept .rx s)) := by
  rw [afterByte, decodeRx_of_afterEscape hst hesc, if_neg s.cfg.subD_ne_subE.symm, if_pos rfl, effect, accept_cfg]

theorem afterByte_invalid {s : State} (hst : s.link.st = .inFrame) (hesc : s.link.esc = true) {b : Byte}
    (hsubD : b ≠ s.cfg.subD) (hsubE : b ≠ s.cfg.subE) :
    afterByte b s = raiseEvent (.invalidEscape b) (setEsc false (accept .rx s)) := by
  rw [afterByte, decodeRx_of_afterEscape hst hesc, if_neg hsubD, if_neg hsubE, effect]

/-! ## Several bytes -/

/-- Taking the bytes `bs`, one a step, leads from `s` to `t`, where still only the receive stream is presented. -/
structure Reads (bs : List Byte) (s t : State) : Prop where
  steps : stepN bs.length s = .next t
  rx : s.inp.rx = bs ++ t.inp.rx
  cfg : t.cfg = s.cfg
  onlyRx : t.OnlyRx

/-- Nothing was put out but labels, and no listener's delivery or registration was touched. -/
structure Quiet (s t : State) : Prop where
  reg : t.link.reg = s.link.reg
  stall : t.inp.stall = s.inp.stall
  out : t.out = { s.out with labels := t.out.labels }

theorem Reads.nil {s : State} (h : s.OnlyRx) : Reads [] s s := ⟨rfl, rfl, rfl, h⟩

theorem Reads.append {as bs : List Byte} {s t u : State} (hst : Reads as s t) (htu : Reads bs t u) :
    Reads (as ++ bs) s u where
  steps := by rw [List.length_append, stepN_add hst.steps, htu.steps]
  rx := by rw [hst.rx, htu.rx, List.append_assoc]
  cfg := htu.cfg.trans hst.cfg
  onlyRx := htu.onlyRx

theorem Quiet.refl (s : State) : Quiet s s := ⟨rfl, rfl, rfl⟩

theorem Quiet.trans {s t u : State} (hst : Quiet s t) (htu : Quiet t u) : Quiet s u where
  reg := htu.reg.trans hst.reg
  stall := htu.stall.trans hst.stall
  out := by rw [htu.out, hst.out]

theorem Quiet.delivered {s t : State} (h : Quiet s t) : t.out.delivered = s.out.delivered := by rw [h.out]

/-- What is left of a stream after its first part was read. -/
theorem Reads.rest {bs rest : List Byte} {s t : State} (h : Reads bs s t) (hrx : s.inp.rx = bs ++ rest) :
    t.inp.rx = rest :=
  List.append_cancel_left (h.rx.symm.trans hrx)

/-! ## The rows of RX -/

theorem runsIn_decodeRx {s : State} (h : s.OnlyRx) (b : Byte) :
    runsIn (decodeRx s.cfg s.context b) (accept .rx s) = true := by
  obtain ⟨-, -, hwf, happ⟩ := decodeRx_spec s.cfg s.context b
  exact runsIn_iff.mpr ⟨fun _ => h.running, hwf, happ⟩

theorem afterByte_changesOnly {s : State} (h : s.OnlyRx) (b : Byte) :
    ChangesOnly (writes (decodeRx s.cfg s.context b)) (accept .rx s) (afterByte b s) :=
  effect_changesOnly (runsIn_decodeRx h b)

/-- No row of RX writes these parts, and but the closing delimiter none delivers. -/
theorem writes_of_isRx {i : Instr} (hrx : i.isRx = true) :
    (∀ p ∈ [Part.running, .tx, .sendResp, .busAcc, .encoded, .encOut], p ∉ writes i) ∧
      (i ≠ .rxbInframeDelim → ∀ p ∈ [Part.reg, .delivered, .stall, .stuck], p ∉ writes i) := by
  cases i <;> simp_all [Instr.isRx, writes]

theorem afterByte_rx {s : State} (h : s.OnlyRx) {b : Byte} {bs : List Byte} (hrx : s.inp.rx = b :: bs) :
    (afterByte b s).inp.rx = bs := by
  rw [(afterByte_changesOnly h b).inputs]
  exact congrArg List.tail hrx

/-- A byte after which no delivery is stuck is read. -/
theorem reads_byte {s : State} (h : s.OnlyRx) {b : Byte} {bs : List Byte} (hrx : s.inp.rx = b :: bs)
    (hunstuck : (afterByte b s).stuck = none) : Reads [b] s (afterByte b s) := by
  have hframe := afterByte_changesOnly h b
  obtain ⟨hisRx, -, -, -⟩ := decodeRx_spec s.cfg s.context b
  have hrunning : (afterByte b s).link.running = s.link.running :=
    hframe.parts .running ((writes_of_isRx hisRx).1 .running (by simp))
  have hstep : step s = .next (afterByte b s) := step_of_onlyRx h hrx
  refine ⟨by simp [stepN, hstep], by simp [hrx, afterByte_rx h hrx], effect_cfg _ _, ?onlyRx⟩
  case onlyRx =>
    refine ⟨hrunning.trans h.running, ?_, ?_, ?_, ?_, ?_, hunstuck⟩ <;> rw [hframe.inputs]
    · exact h.send
    · exact h.func
    · exact h.bus
    · exact h.ctl
    · exact h.rst

/-- A byte that is no closing delimiter is read, and quietly. -/
theorem reads_quiet_byte {s : State} (h : s.OnlyRx) {b : Byte} {bs : List Byte} (hrx : s.inp.rx = b :: bs)
    (hquiet : decodeRx s.cfg s.context b ≠ .rxbInframeDelim) :
    Reads [b] s (afterByte b s) ∧ Quiet s (afterByte b s) := by
  have hframe := afterByte_changesOnly h b
  obtain ⟨hisRx, -, -, -⟩ := decodeRx_spec s.cfg s.context b
  obtain ⟨hnone, hsilent⟩ := writes_of_isRx hisRx
  have hparts (p : Part) (hp : p ∈ [Part.reg, .delivered, .stall, .stuck]) := hframe.parts p (hsilent hquiet p hp)
  have houts (p : Part) (hp : p ∈ [Part.running, .tx, .sendResp, .busAcc, .encoded, .encOut]) :=
    hframe.parts p (hnone p hp)
  have hstuck : (afterByte b s).stuck = s.stuck := hparts .stuck (by simp)
  refine ⟨reads_byte h hrx (hstuck.trans h.unstuck), hparts .reg (by simp), hparts .stall (by simp), ?out⟩
  case out =>
    have htx : (afterByte b s).out.tx = s.out.tx := houts .tx (by simp)
    have hdelivered : (afterByte b s).out.delivered = s.out.delivered := hparts .delivered (by simp)
    have hsend : (afterByte b s).out.sendResp = s.out.sendResp := houts .sendResp (by simp)
    have hbus : (afterByte b s).out.busAcc = s.out.busAcc := houts .busAcc (by simp)
    have hencoded : (afterByte b s).out.encoded = s.out.encoded := houts .encoded (by simp)
    have henc : (afterByte b s).out.encOut = s.out.encOut := houts .encOut (by simp)
    simp only [← htx, ← hdelivered, ← hsend, ← hbus, ← hencoded, ← henc]

/-- Only `DELIM` can close a frame. -/
theorem decodeRx_ne_close {c : Cfg} {x : RxContext} {b : Byte} (hb : b ≠ c.delim) :
    decodeRx c x b ≠ .rxbInframeDelim := by
  intro h
  obtain ⟨-, hword, -, -⟩ := decodeRx_spec c x b
  rw [h] at hword
  exact hb (BitVec.eq_of_toNat_eq (congrArg Request.word hword)).symm

/-- Bytes none of which is `DELIM` are read quietly, in every context. -/
theorem reads_of_no_delim {s : State} (h : s.OnlyRx) {bs rest : List Byte} (hrx : s.inp.rx = bs ++ rest)
    (hno : s.cfg.delim ∉ bs) : ∃ t, Reads bs s t ∧ Quiet s t := by
  induction bs generalizing s with
  | nil => exact ⟨s, .nil h, .refl s⟩
  | cons b bs ih =>
    simp only [List.mem_cons, not_or] at hno
    obtain ⟨hb, hbs⟩ := hno
    obtain ⟨hread, hquiet⟩ := reads_quiet_byte h hrx (decodeRx_ne_close (Ne.symm hb))
    obtain ⟨t, htail, hquiet'⟩ := ih hread.onlyRx (hread.rest (rest := bs ++ rest) hrx) (hread.cfg ▸ hbs)
    exact ⟨t, hread.append htail, hquiet.trans hquiet'⟩

/-- In Idle such bytes are stray, and leave the link state (R95). -/
theorem reads_stray {s : State} (h : s.OnlyRx) (hidle : s.link.st = .idle) {bs rest : List Byte}
    (hrx : s.inp.rx = bs ++ rest) (hno : s.cfg.delim ∉ bs) : ∃ t, Reads bs s t ∧ Quiet s t ∧ t.link = s.link := by
  induction bs generalizing s with
  | nil => exact ⟨s, .nil h, .refl s, rfl⟩
  | cons b bs ih =>
    simp only [List.mem_cons, not_or] at hno
    obtain ⟨hb, hbs⟩ := hno
    obtain ⟨hread, hquiet⟩ := reads_quiet_byte h hrx (decodeRx_ne_close (Ne.symm hb))
    have hlink : (afterByte b s).link = s.link := by simp [afterByte_stray hidle (Ne.symm hb)]
    obtain ⟨t, htail, hquiet', hlink'⟩ :=
      ih hread.onlyRx (hlink ▸ hidle) (hread.rest (rest := bs ++ rest) hrx) (hread.cfg ▸ hbs)
    exact ⟨t, hread.append htail, hquiet.trans hquiet', hlink'.trans hlink⟩

/-! ## Opening and closing a frame -/

/-- The opening delimiter (R80). -/
theorem reads_open {s : State} (h : s.OnlyRx) (hidle : s.link.st = .idle) {rest : List Byte}
    (hrx : s.inp.rx = s.cfg.delim :: rest) :
    ∃ t, Reads [s.cfg.delim] s t ∧ Quiet s t ∧ t.out.labels = s.out.labels ∧
      t.link = { s.link with st := .inFrame, esc := false, n := 0, ovf := false } := by
  have hrow : decodeRx s.cfg s.context s.cfg.delim = .rxbIdleDelim := by simp [decodeRx_of_idle hidle]
  obtain ⟨hread, hquiet⟩ := reads_quiet_byte h hrx (by simp [hrow])
  refine ⟨_, hread, hquiet, ?_, ?_⟩ <;> rw [afterByte_open hidle]
  · simp
  · rfl

/-- A closing delimiter that discards its frame (R83). -/
theorem reads_discard {s : State} (h : s.OnlyRx) (hst : s.link.st = .inFrame) (hesc : s.link.esc = false)
    (hincomplete : ¬ (s.link.n = 12 ∧ (s.link.ovf = false ∨ s.cfg.longFrameEmits = true))) {rest : List Byte}
    (hrx : s.inp.rx = s.cfg.delim :: rest) :
    ∃ t, Reads [s.cfg.delim] s t ∧ Quiet s t ∧ t.link = { s.link with st := .idle, n := 0, ovf := false } := by
  have hafter := (afterByte_close hst hesc).trans (closeFrame_of_incomplete (s := accept .rx s) hesc hincomplete)
  refine ⟨_, reads_byte h hrx ?_, ?_, ?_⟩ <;> rw [hafter]
  · exact h.unstuck
  · exact ⟨rfl, rfl, rfl⟩
  · rfl

/-- A closing delimiter that completes its frame, to listeners that complete their deliveries (R83, R105). -/
theorem reads_complete {s : State} (h : s.OnlyRx) (hst : s.link.st = .inFrame) (hesc : s.link.esc = false)
    (hcomplete : s.link.n = 12 ∧ (s.link.ovf = false ∨ s.cfg.longFrameEmits = true))
    (hlisteners : ListenersComplete s s.link.reg.length) {rest : List Byte} (hrx : s.inp.rx = s.cfg.delim :: rest) :
    ∃ t, Reads [s.cfg.delim] s t ∧
      t.link = { s.link with st := .idle, n := 0, ovf := false, reg := afterDispatch s.cfg s.link.reg } ∧
      t.out = { s.out with delivered := s.out.delivered ++ deliveriesOf s.link.reg s.link.buf } ∧
      t.inp.stall = s.inp.stall.map (· - s.link.reg.length) := by
  have hafter :=
    (afterByte_close hst hesc).trans (closeFrame_of_complete (s := accept .rx s) hesc hcomplete hlisteners)
  refine ⟨_, reads_byte h hrx ?_, ?_, ?_, ?_⟩ <;> rw [hafter]
  · exact h.unstuck
  · rfl
  · rfl
  · rfl

/-! ## The bytes of a frame -/

/-- What offering a byte does to the link state (R85, R86). -/
def offerTo (l : LinkState) (v : Byte) : LinkState :=
  if h : l.n < 12 then { l with buf := l.buf.set l.n v h, n := l.n + 1 } else { l with ovf := true }

/-- What offering bytes one after the other does to the link state. -/
def collect (l : LinkState) (ds : List Byte) : LinkState := ds.foldl offerTo l

theorem offerByte_link (v : Byte) (s : State) : (offerByte v s).link = offerTo s.link v := by
  unfold offerTo
  split
  · next h => rw [offerByte_room h]
  · next h => rw [offerByte_full h]; rfl

theorem offerByte_labels_of_room {s : State} (h : s.link.n < 12) (v : Byte) :
    (offerByte v s).out.labels = s.out.labels := by
  rw [offerByte_room h]

/-- Offering a byte writes the buffer, the count and `ovf` only. -/
theorem offerTo_frame (l : LinkState) (v : Byte) :
    (offerTo l v).st = l.st ∧ (offerTo l v).esc = l.esc ∧ (offerTo l v).reg = l.reg := by
  unfold offerTo
  split <;> exact ⟨rfl, rfl, rfl⟩

theorem collect_frame (l : LinkState) (ds : List Byte) :
    (collect l ds).st = l.st ∧ (collect l ds).esc = l.esc ∧ (collect l ds).reg = l.reg := by
  induction ds generalizing l with
  | nil => exact ⟨rfl, rfl, rfl⟩
  | cons d ds ih =>
    obtain ⟨hst, hesc, hreg⟩ := ih (offerTo l d)
    obtain ⟨hst', hesc', hreg'⟩ := offerTo_frame l d
    exact ⟨hst.trans hst', hesc.trans hesc', hreg.trans hreg'⟩

theorem offerTo_n (l : LinkState) (v : Byte) : (offerTo l v).n = if l.n < 12 then l.n + 1 else l.n := by
  unfold offerTo
  split <;> rfl

theorem offerTo_ovf (l : LinkState) (v : Byte) : (offerTo l v).ovf = (l.ovf || !decide (l.n < 12)) := by
  unfold offerTo
  split
  · next h => simp [h]
  · next h => simp [h]

/-- The bytes collected, in order. -/
def collected (l : LinkState) : List Byte := l.buf.toList.take l.n

theorem collected_offerTo {l : LinkState} (hle : l.n ≤ 12) (v : Byte) :
    collected (offerTo l v) = (collected l ++ [v]).take 12 := by
  unfold collected offerTo
  split
  · next h =>
    have hfits : (l.buf.toList.take l.n ++ [v]).length ≤ 12 := by
      simp only [List.length_append, List.length_take, Vector.length_toList, List.length_singleton]
      omega
    rw [List.take_of_length_le hfits, Vector.toList_set, List.take_add_one, List.take_set_of_le (Nat.le_refl l.n),
      List.getElem?_set_self (by simpa using h), Option.toList_some]
  · next h =>
    have hn : l.n = 12 := by omega
    simp [hn]

/-- Offering one byte more than a first one. -/
theorem collect_cons (l : LinkState) (d : Byte) (ds : List Byte) : collect l (d :: ds) = collect (offerTo l d) ds := rfl

theorem offerTo_n_le {l : LinkState} (hle : l.n ≤ 12) (v : Byte) : (offerTo l v).n ≤ 12 := by
  rw [offerTo_n]
  split <;> omega

/-- At most twelve bytes are collected (R12). -/
theorem collect_n {l : LinkState} (hle : l.n ≤ 12) (ds : List Byte) :
    (collect l ds).n = min 12 (l.n + ds.length) := by
  induction ds generalizing l with
  | nil => simp [collect, hle]
  | cons d ds ih =>
    rw [collect_cons, ih (offerTo_n_le hle d), offerTo_n, List.length_cons]
    split <;> omega

/-- `ovf` says whether more than twelve were offered (R16). -/
theorem collect_ovf {l : LinkState} (hle : l.n ≤ 12) (ds : List Byte) :
    (collect l ds).ovf = (l.ovf || decide (12 < l.n + ds.length)) := by
  induction ds generalizing l with
  | nil => simp [collect, hle]
  | cons d ds ih =>
    rw [collect_cons, ih (offerTo_n_le hle d), offerTo_ovf, offerTo_n, List.length_cons]
    by_cases h : l.n < 12
    · simp [h, Nat.add_assoc, Nat.add_comm 1]
    · have hmore : 12 < l.n + (ds.length + 1) := by omega
      simp [h, hmore]

theorem take_take_append {α : Type} (xs ys : List α) (n : Nat) : (xs.take n ++ ys).take n = (xs ++ ys).take n := by
  obtain h | h := Nat.le_total n xs.length
  · simp [List.take_append, Nat.sub_eq_zero_of_le h, h]
  · rw [List.take_of_length_le h]

/-- The bytes collected are the first twelve offered. -/
theorem collected_collect {l : LinkState} (hle : l.n ≤ 12) (ds : List Byte) :
    collected (collect l ds) = (collected l ++ ds).take 12 := by
  induction ds generalizing l with
  | nil =>
    have hlength : (collected l).length ≤ 12 := by simp [collected]
    simp [collect, List.take_of_length_le hlength]
  | cons d ds ih =>
    rw [collect_cons, ih (offerTo_n_le hle d), collected_offerTo hle, take_take_append, List.append_assoc]
    rfl

/-- An escaped data byte: `ESC` and a substitute for `v` (R84, R88, R89). -/
theorem reads_escaped {s : State} (h : s.OnlyRx) (hst : s.link.st = .inFrame) (hesc : s.link.esc = false)
    {sub v : Byte} (hne : sub ≠ s.cfg.delim)
    (hsub : ∀ u : State, u.cfg = s.cfg → u.link.st = .inFrame → u.link.esc = true →
      afterByte sub u = offerByte v (setEsc false (accept .rx u)))
    {rest : List Byte} (hrx : s.inp.rx = [s.cfg.esc, sub] ++ rest) :
    ∃ t, Reads [s.cfg.esc, sub] s t ∧ Quiet s t ∧ t.link = offerTo s.link v ∧
      (s.link.n < 12 → t.out.labels = s.out.labels) := by
  obtain ⟨hread, hquiet⟩ := reads_quiet_byte h hrx (decodeRx_ne_close s.cfg.delim_ne_esc.symm)
  have hfirst := afterByte_esc hst hesc
  generalize afterByte s.cfg.esc s = u at hread hquiet hfirst
  have hu : u.link = { s.link with esc := true } := by rw [hfirst]; rfl
  obtain ⟨hread', hquiet'⟩ := reads_quiet_byte hread.onlyRx (hread.rest (rest := sub :: rest) hrx)
    (decodeRx_ne_close (by rwa [hread.cfg]))
  have hsecond := hsub u hread.cfg (by rw [hu]; exact hst) (by rw [hu])
  have hcleared : (setEsc false (accept .rx u)).link = s.link := by
    simp only [setEsc, accept_link, hu, ← hesc]
  refine ⟨_, hread.append hread', hquiet.trans hquiet', ?_, fun hroom => ?_⟩ <;> rw [hsecond]
  · rw [offerByte_link, hcleared]
  · rw [offerByte_labels_of_room (by rw [hcleared]; exact hroom), hfirst]
    simp

/-- A data byte in the form in which it leaves the encoder is offered to the buffer (R53, R85 to R89). -/
theorem reads_data {s : State} (h : s.OnlyRx) (hst : s.link.st = .inFrame) (hesc : s.link.esc = false) (d : Byte)
    {rest : List Byte} (hrx : s.inp.rx = escapeByte s.cfg d ++ rest) :
    ∃ t, Reads (escapeByte s.cfg d) s t ∧ Quiet s t ∧ t.link = offerTo s.link d ∧
      (s.link.n < 12 → t.out.labels = s.out.labels) := by
  obtain ⟨-, hdsubD, hdsubE, -, -, -⟩ := s.cfg.distinct
  obtain ⟨hd, e⟩ | ⟨hd, e⟩ | ⟨hdelim, hne, e⟩ := escapeByte_cases s.cfg d <;> rw [e] at hrx ⊢
  · refine reads_escaped h hst hesc hdsubD.symm (fun u hcfg hust huesc => ?_) hrx
    rw [hd, ← hcfg]
    exact afterByte_subD hust huesc
  · refine reads_escaped h hst hesc hdsubE.symm (fun u hcfg hust huesc => ?_) hrx
    rw [hd, ← hcfg]
    exact afterByte_subE hust huesc
  · obtain ⟨hread, hquiet⟩ := reads_quiet_byte h hrx (decodeRx_ne_close hdelim)
    have hafter := afterByte_plain hst hesc hdelim hne
    refine ⟨_, hread, hquiet, ?_, fun hroom => ?_⟩ <;> rw [hafter]
    · rw [offerByte_link, accept_link]
    · rw [offerByte_labels_of_room (by simpa using hroom), accept_out]

/-- The data bytes of a frame, escaped, are offered one after the other. -/
theorem reads_body {s : State} (h : s.OnlyRx) (hst : s.link.st = .inFrame) (hesc : s.link.esc = false)
    (ds : List Byte) {rest : List Byte} (hrx : s.inp.rx = escapeBytes s.cfg ds ++ rest) :
    ∃ t, Reads (escapeBytes s.cfg ds) s t ∧ Quiet s t ∧ t.link = collect s.link ds ∧
      (s.link.n + ds.length ≤ 12 → t.out.labels = s.out.labels) := by
  induction ds generalizing s with
  | nil => exact ⟨s, .nil h, .refl s, rfl, fun _ => rfl⟩
  | cons d ds ih =>
    rw [escapeBytes, List.append_assoc] at hrx
    obtain ⟨u, hread, hquiet, hlink, hlabels⟩ := reads_data h hst hesc d hrx
    obtain ⟨hust, huesc, -⟩ := offerTo_frame s.link d
    rw [← hlink] at hust huesc
    obtain ⟨t, hread', hquiet', hlink', hlabels'⟩ := ih hread.onlyRx (hust.trans hst) (huesc.trans hesc)
      (by rw [hread.cfg]; exact hread.rest hrx)
    rw [hread.cfg] at hread'
    refine ⟨t, hread.append hread', hquiet.trans hquiet', by rw [hlink', hlink, collect_cons], fun hfits => ?_⟩
    rw [List.length_cons] at hfits
    have hroom : s.link.n < 12 := by omega
    have hn : u.link.n = s.link.n + 1 := by rw [hlink, offerTo_n, if_pos hroom]
    rw [hlabels' (by omega), hlabels hroom]

end Sys2Proof.Machine
end

section
/-! PROOFS. Streams of frames (spec/41_decoder.md R93 to R98, spec/40_encoder.md R72): what a decoder in Idle, or out of
phase, makes of encoded frames, of frames too short or too long, and of another link's burst. -/

namespace Sys2Proof.Machine

/-! ## One frame -/

/-- From Idle, the opening delimiter and the escaped data bytes `ds`: the decoder has collected them. -/
theorem reads_open_body {s : State} (h : s.OnlyRx) (hidle : s.link.st = .idle) (ds : List Byte) {rest : List Byte}
    (hrx : s.inp.rx = s.cfg.delim :: (escapeBytes s.cfg ds ++ rest)) :
    ∃ t, Reads (s.cfg.delim :: escapeBytes s.cfg ds) s t ∧ Quiet s t ∧
      t.link = collect { s.link with st := .inFrame, esc := false, n := 0, ovf := false } ds ∧
      (ds.length ≤ 12 → t.out.labels = s.out.labels) := by
  obtain ⟨u, hread, hquiet, hlabels, hlink⟩ := reads_open h hidle hrx
  obtain ⟨t, hread', hquiet', hlink', hlabels'⟩ := reads_body hread.onlyRx (by rw [hlink]) (by rw [hlink]) ds
    (by rw [hread.cfg]; exact hread.rest hrx)
  rw [hread.cfg] at hread'
  refine ⟨t, hread.append hread', hquiet.trans hquiet', by rw [hlink', hlink], fun hfits => ?_⟩
  rw [hlabels' (by rw [hlink]; simpa using hfits), hlabels]

/-- The link state with the frame `ds` collected from its start. -/
structure HasCollected (ds : List Byte) (l l' : LinkState) : Prop where
  st : l'.st = .inFrame
  esc : l'.esc = false
  n : l'.n = min 12 ds.length
  ovf : l'.ovf = decide (12 < ds.length)
  bytes : collected l' = ds.take 12
  reg : l'.reg = l.reg

theorem hasCollected_collect (ds : List Byte) (l : LinkState) :
    HasCollected ds l (collect { l with st := .inFrame, esc := false, n := 0, ovf := false } ds) := by
  obtain ⟨hst, hesc, hreg⟩ := collect_frame { l with st := .inFrame, esc := false, n := 0, ovf := false } ds
  refine ⟨hst, hesc, ?_, ?_, ?_, hreg⟩
  · rw [collect_n (Nat.zero_le 12), Nat.zero_add]
  · rw [collect_ovf (Nat.zero_le 12), Nat.zero_add, Bool.false_or]
  · rw [collected_collect (Nat.zero_le 12)]
    simp [collected]

/-- Twelve bytes collected are the whole buffer. -/
theorem HasCollected.buf {ds : List Byte} {l l' : LinkState} (h : HasCollected ds l l') (hlen : 12 ≤ ds.length) :
    l'.buf.toList = ds.take 12 := by
  have hn : l'.n = 12 := by rw [h.n]; omega
  rw [← h.bytes, collected, hn, List.take_of_length_le (by simp)]

/-- The state after an encoded Frame was recovered: dispatched once, and the decoder at rest again. -/
structure Recovers (f : Frame) (s t : State) : Prop where
  delivered : t.out.delivered = s.out.delivered ++ deliveriesOf s.link.reg f
  labels : t.out.labels = s.out.labels
  stall : t.inp.stall = s.inp.stall.map (· - s.link.reg.length)
  reg : t.link.reg = afterDispatch s.cfg s.link.reg
  st : t.link.st = .idle
  esc : t.link.esc = false
  n : t.link.n = 0
  ovf : t.link.ovf = false

/-- From Idle an encoded Frame is recovered (R93). -/
theorem reads_frame {s : State} (h : s.OnlyRx) (hidle : s.link.st = .idle) (f : Frame) {rest : List Byte}
    (hrx : s.inp.rx = encodeFrame s.cfg f ++ rest) (hlisteners : ListenersComplete s s.link.reg.length) :
    ∃ t, Reads (encodeFrame s.cfg f) s t ∧ Recovers f s t := by
  have hrx' : s.inp.rx = s.cfg.delim :: (escapeBytes s.cfg f.toList ++ (s.cfg.delim :: rest)) := by
    simpa [encodeFrame] using hrx
  obtain ⟨u, hread, hquiet, hlink, hlabels⟩ := reads_open_body h hidle f.toList hrx'
  have hcoll : HasCollected f.toList s.link u.link := hlink ▸ hasCollected_collect f.toList s.link
  have hn : u.link.n = 12 := by simp [hcoll.n]
  have hovf : u.link.ovf = false := by simp [hcoll.ovf]
  have hbuf : u.link.buf = f := Vector.toList_inj.mp (by
    rw [hcoll.buf (by simp), List.take_of_length_le (by simp)])
  obtain ⟨t, hread', hlink', hout, hstall⟩ := reads_complete hread.onlyRx hcoll.st hcoll.esc ⟨hn, .inl hovf⟩
    (by rw [hcoll.reg, ListenersComplete, hquiet.stall]; exact hlisteners)
    (by rw [hread.cfg]; exact hread.rest hrx')
  rw [hread.cfg] at hread'
  refine ⟨t, hread.append hread', ?_⟩
  exact
    { delivered := by rw [hout, hbuf, hcoll.reg, hquiet.delivered]
      labels := by rw [hout, hlabels (by simp)]
      stall := by rw [hstall, hquiet.stall, hcoll.reg]
      reg := by rw [hlink', hcoll.reg, hread.cfg]
      st := by rw [hlink']
      esc := by rw [hlink', ← hcoll.esc]
      n := by rw [hlink']
      ovf := by rw [hlink'] }

/-- Before its last byte an encoded Frame is read quietly: after the opening delimiter no byte is `DELIM` (R74). -/
theorem reads_before_close {s : State} (h : s.OnlyRx) (hidle : s.link.st = .idle) (f : Frame) {rest : List Byte}
    (hrx : s.inp.rx = encodeFrame s.cfg f ++ rest) {k : Nat} (hk : k < (encodeFrame s.cfg f).length) :
    ∃ u, stepN k s = .next u ∧ Quiet s u := by
  cases k with
  | zero => exact ⟨s, rfl, .refl s⟩
  | succ k =>
    have hk' : k ≤ (escapeBytes s.cfg f.toList).length := by simpa [encodeFrame, Nat.lt_succ_iff] using hk
    have hrx' : s.inp.rx = s.cfg.delim :: (escapeBytes s.cfg f.toList ++ (s.cfg.delim :: rest)) := by
      simpa [encodeFrame] using hrx
    obtain ⟨t, hread, hquiet, -, -⟩ := reads_open h hidle hrx'
    have hbytes : t.inp.rx = (escapeBytes s.cfg f.toList).take k ++
        ((escapeBytes s.cfg f.toList).drop k ++ (s.cfg.delim :: rest)) := by
      rw [← List.append_assoc, List.take_append_drop]
      exact hread.rest hrx'
    have hno : s.cfg.delim ∉ (escapeBytes s.cfg f.toList).take k := fun hmem =>
      delim_not_mem_escapeBytes s.cfg f.toList (List.mem_of_mem_take hmem)
    obtain ⟨u, hread', hquiet'⟩ := reads_of_no_delim hread.onlyRx hbytes (hread.cfg ▸ hno)
    have hsteps := (hread.append hread').steps
    rw [List.length_append, List.length_take, Nat.min_eq_left hk', List.length_singleton, Nat.add_comm] at hsteps
    exact ⟨u, hsteps, hquiet.trans hquiet'⟩

/-- Settles O53: the frame is recovered whole, and read quietly up to its last byte. -/
theorem decoderRecoversAnEncodedFrame : Obligations.DecoderRecoversAnEncodedFrame := by
  intro s f rest h hidle hrx hlisteners
  refine ⟨fun k hk => ?before, ?after⟩
  case before =>
    obtain ⟨u, hsteps, hquiet⟩ := reads_before_close h hidle f hrx hk
    exact ⟨u, hsteps, hquiet.delivered, hquiet.reg⟩
  case after =>
    obtain ⟨t, hread, hrec⟩ := reads_frame h hidle f hrx hlisteners
    exact ⟨t, hread.steps, hrec.delivered, hrec.reg, hrec.st, hrec.n, hrec.esc, hrec.ovf, hread.rest hrx, hrec.labels,
      hread.cfg, hread.onlyRx⟩

/-! ## Frames in a row, and another link's burst -/

/-- Settles O55: each such byte is stray. -/
theorem strayBytesNeverLeaveIdle : Obligations.StrayBytesNeverLeaveIdle := by
  intro s bs rest h hidle hno hrx
  obtain ⟨t, hread, hquiet, hlink⟩ := reads_stray h hidle hrx hno
  exact ⟨t, hread.steps, hlink, hquiet.delivered, hread.rest hrx⟩

/-- Deliveries that complete beyond a first dispatch's own. -/
theorem ListenersComplete.after {s t : State} {m k : Nat} (h : ListenersComplete s (m + k))
    (hstall : t.inp.stall = s.inp.stall.map (· - m)) : ListenersComplete t k := by
  intro j hj
  rw [hstall] at hj
  obtain ⟨i, hi, rfl⟩ := Option.map_eq_some_iff.mp hj
  have := h i hi
  omega

theorem ListenersComplete.mono {s : State} {m k : Nat} (h : ListenersComplete s m) (hle : k ≤ m) :
    ListenersComplete s k :=
  fun j hj => hle.trans (h j hj)

theorem afterDispatch_afterDispatch (c : Cfg) (r : List Nat) :
    afterDispatch c (afterDispatch c r) = afterDispatch c r := by
  unfold afterDispatch
  split <;> rfl

/-- Settles O54: a frame is recovered, the bytes between are stray, and a frame is recovered by what the first left. -/
theorem backToBackFramesAreBothDispatched : Obligations.BackToBackFramesAreBothDispatched := by
  intro s f1 f2 gap rest h hidle hno hrx hlisteners
  obtain ⟨t1, hread1, hrec1⟩ := reads_frame h hidle f1 (rest := gap ++ encodeFrame s.cfg f2 ++ rest)
    (by simpa using hrx) (hlisteners.mono (Nat.le_add_right _ _))
  have hrx1 : t1.inp.rx = gap ++ (encodeFrame s.cfg f2 ++ rest) := hread1.rest (by simpa using hrx)
  obtain ⟨t2, hread2, hquiet2, hlink2⟩ := reads_stray hread1.onlyRx hrec1.st hrx1 (hread1.cfg ▸ hno)
  have hcfg : t2.cfg = s.cfg := hread2.cfg.trans hread1.cfg
  have hlisteners2 : ListenersComplete t2 t2.link.reg.length := by
    rw [hlink2, hrec1.reg]
    exact hlisteners.after (hquiet2.stall.trans hrec1.stall)
  have hrx2 : t2.inp.rx = encodeFrame t2.cfg f2 ++ rest := hcfg ▸ hread2.rest hrx1
  obtain ⟨t3, hread3, hrec3⟩ := reads_frame hread2.onlyRx (hlink2 ▸ hrec1.st) f2 hrx2 hlisteners2
  rw [hcfg] at hread3
  have hreg : t3.link.reg = afterDispatch s.cfg s.link.reg := by
    rw [hrec3.reg, hlink2, hrec1.reg, hcfg, afterDispatch_afterDispatch]
  refine ⟨t3, ((hread1.append hread2).append hread3).steps, ?_, hreg, hrec3.st, hrec3.n,
    ((hread1.append hread2).append hread3).rest hrx⟩
  rw [hrec3.delivered, hquiet2.delivered, hrec1.delivered, hlink2, hrec1.reg]

/-- The encoding depends on the reserved values alone. -/
theorem encodeFrame_congr {c d : Cfg} (hdelim : c.delim = d.delim) (hesc : c.esc = d.esc) (hsubD : c.subD = d.subD)
    (hsubE : c.subE = d.subE) (f : Frame) : encodeFrame c f = encodeFrame d f := by
  have hbyte : escapeByte c = escapeByte d := by
    funext b
    simp [escapeByte, hdelim, hesc, hsubD, hsubE]
  rw [encodeFrame_eq_flatMap, encodeFrame_eq_flatMap, hbyte, hdelim]

/-- Settles O60: the burst is the Frame's encoding at the receiver too, which recovers it. -/
theorem loopbackDeliversTheSentFrame : Obligations.LoopbackDeliversTheSentFrame := by
  intro a a' b f burst rest hdelim hesc hsubD hsubE hok hexec htx h hidle hrx hlisteners
  rw [exec_send, sendFrame_of_ok hok] at hexec
  obtain rfl := Host.Outcome.next.inj hexec
  have hburst : burst = encodeFrame b.cfg f := by
    rw [← encodeFrame_congr hdelim hesc hsubD hsubE]
    exact (List.append_cancel_left htx).symm
  subst hburst
  obtain ⟨t, hread, hrec⟩ := reads_frame h hidle f hrx hlisteners
  exact ⟨t, hread.steps, hrec.delivered, hrec.st, hread.rest hrx⟩

/-! ## Out of phase -/

/-- Settles O57: in each context the one row of `DELIM`. -/
theorem delimitersToggleOutsideAfterEscape : Obligations.DelimitersToggleOutsideAfterEscape := by
  intro s bs h hrx
  obtain ⟨-, hsubD, hsubE, -, -, -⟩ := s.cfg.distinct
  refine ⟨afterByte s.cfg.delim s, step_of_onlyRx h hrx, afterByte_rx h hrx, fun hidle => ?opens,
    fun hst hesc => ?closes, fun hst hesc => ?drops⟩
  case opens => rw [afterByte_open hidle, enterState_st]
  case closes =>
    rw [afterByte_close hst hesc, closeFrame_eq]
    split <;> rfl
  case drops =>
    rw [afterByte_invalid hst hesc hsubD hsubE]
    exact ⟨hst, rfl⟩

/-- The decoder is inside a frame of fewer than twelve bytes, outside AfterEscape. -/
structure OutOfPhase (s : State) : Prop where
  st : s.link.st = .inFrame
  esc : s.link.esc = false
  n : s.link.n < 12

/-- Out of phase, an encoded Frame's delimiters discard and open, and its bytes between are stray (R96). -/
theorem reads_frame_outOfPhase {s : State} (h : s.OnlyRx) (hphase : OutOfPhase s) (f : Frame) {rest : List Byte}
    (hrx : s.inp.rx = encodeFrame s.cfg f ++ rest) :
    ∃ t, Reads (encodeFrame s.cfg f) s t ∧ Quiet s t ∧ OutOfPhase t := by
  have hrx' : s.inp.rx = s.cfg.delim :: (escapeBytes s.cfg f.toList ++ (s.cfg.delim :: rest)) := by
    simpa [encodeFrame] using hrx
  obtain ⟨t1, hread1, hquiet1, hlink1⟩ := reads_discard h hphase.st hphase.esc (by have := hphase.n; omega) hrx'
  have hidle1 : t1.link.st = .idle := by rw [hlink1]
  obtain ⟨t2, hread2, hquiet2, hlink2⟩ := reads_stray hread1.onlyRx hidle1 (hread1.rest hrx')
    (hread1.cfg ▸ delim_not_mem_escapeBytes s.cfg f.toList)
  have hcfg : t2.cfg = s.cfg := hread2.cfg.trans hread1.cfg
  obtain ⟨t3, hread3, hquiet3, -, hlink3⟩ := reads_open hread2.onlyRx (hlink2 ▸ hidle1)
    (hcfg ▸ hread2.rest (hread1.rest hrx'))
  rw [hcfg] at hread3
  refine ⟨t3, ?_, (hquiet1.trans hquiet2).trans hquiet3, ?_⟩
  · simpa [encodeFrame] using (hread1.append hread2).append hread3
  · exact ⟨by rw [hlink3], by rw [hlink3], by rw [hlink3]; exact Nat.succ_pos 11⟩

theorem reads_stream_outOfPhase {s : State} (h : s.OnlyRx) (hphase : OutOfPhase s) (fs : List Frame)
    {rest : List Byte} (hrx : s.inp.rx = streamOf s.cfg fs ++ rest) :
    ∃ t, Reads (streamOf s.cfg fs) s t ∧ Quiet s t ∧ OutOfPhase t := by
  induction fs generalizing s with
  | nil => exact ⟨s, .nil h, .refl s, hphase⟩
  | cons f fs ih =>
    have hstream : streamOf s.cfg (f :: fs) = encodeFrame s.cfg f ++ streamOf s.cfg fs := rfl
    rw [hstream, List.append_assoc] at hrx
    obtain ⟨u, hread, hquiet, hphase'⟩ := reads_frame_outOfPhase h hphase f hrx
    obtain ⟨t, hread', hquiet', hphase''⟩ := ih hread.onlyRx hphase' (by rw [hread.cfg]; exact hread.rest hrx)
    rw [hread.cfg] at hread'
    exact ⟨t, hread.append hread', hquiet.trans hquiet', hphase''⟩

/-- Settles O56: every frame of the stream is lost, and leaves the decoder out of phase. -/
theorem invertedPhaseLosesEveryFrame : Obligations.InvertedPhaseLosesEveryFrame := by
  intro s fs rest h hst hesc hn hrx
  obtain ⟨t, hread, hquiet, hphase⟩ := reads_stream_outOfPhase h ⟨hst, hesc, hn⟩ fs hrx
  exact ⟨t, hread.steps, hphase.st, hphase.esc, hphase.n, hquiet.delivered, hquiet.reg, hread.rest hrx⟩

/-! ## Frames too short and too long -/

/-- The bytes of a delimited frame of data bytes, and how many. -/
theorem length_delimited (c : Cfg) (ds : List Byte) :
    (c.delim :: escapeBytes c ds ++ [c.delim]).length = (escapeBytes c ds).length + 2 := by
  simp

/-- Settles O58: fewer than twelve bytes are collected, and the closing delimiter discards them. -/
theorem partialFrameIsDiscarded : Obligations.PartialFrameIsDiscarded := by
  intro s ds rest h hidle hfew hrx
  obtain ⟨u, hread, hquiet, hlink, -⟩ := reads_open_body h hidle ds hrx
  have hcoll : HasCollected ds s.link u.link := hlink ▸ hasCollected_collect ds s.link
  have hn : u.link.n ≠ 12 := by rw [hcoll.n]; omega
  obtain ⟨t, hread', hquiet', hlink'⟩ := reads_discard hread.onlyRx hcoll.st hcoll.esc (fun hc => hn hc.1)
    (by rw [hread.cfg]; exact hread.rest hrx)
  rw [hread.cfg] at hread'
  have hall := hread.append hread'
  have hquietAll := hquiet.trans hquiet'
  refine ⟨t, by rw [← length_delimited]; exact hall.steps, ?_, ?_, ?_, ?_, hquietAll.reg, hquietAll.delivered,
    hall.rest (by simpa using hrx)⟩ <;> rw [hlink']
  exact hcoll.esc

theorem stepN_succ_iff {k : Nat} {s t : State} :
    stepN (k + 1) s = .next t ↔ ∃ u, step s = .next u ∧ stepN k u = .next t := by
  rw [stepN]
  cases step s <;> simp

/-- A run has a state after each of its steps. -/
theorem stepN_le {k m : Nat} (hle : k ≤ m) {s t : State} (h : stepN m s = .next t) : ∃ u, stepN k s = .next u := by
  induction k generalizing m s with
  | zero => exact ⟨s, rfl⟩
  | succ k ih =>
    obtain ⟨m, rfl⟩ := Nat.exists_eq_add_one_of_ne_zero (Nat.ne_zero_of_lt hle)
    obtain ⟨u, hstep, hrest⟩ := stepN_succ_iff.mp h
    obtain ⟨v, hv⟩ := ih (Nat.le_of_succ_le_succ hle) hrest
    exact ⟨v, stepN_succ_iff.mpr ⟨u, hstep, hv⟩⟩

/-- No step takes the count past twelve (R12). -/
theorem step_n_le {s t : State} (hle : s.link.n ≤ 12) (h : step s = .next t) : t.link.n ≤ 12 := by
  obtain ⟨-, rfl⟩ | ⟨p, i, -, -, hexec⟩ := step_next_cases h
  · exact hle
  · obtain ⟨hruns, rfl⟩ := exec_next_iff.mp hexec
    exact effect_n_le hruns (by rwa [accept_link])

theorem stepN_n_le {k : Nat} {s t : State} (hle : s.link.n ≤ 12) (h : stepN k s = .next t) : t.link.n ≤ 12 := by
  induction k generalizing s with
  | zero => exact Host.Outcome.next.inj h ▸ hle
  | succ k ih =>
    obtain ⟨u, hstep, hrest⟩ := stepN_succ_iff.mp h
    exact ih (step_n_le hle hstep) hrest

/-- Whatever becomes of the frame, its close puts the decoder to rest and keeps the buffer (R83). -/
theorem closeFrame_link (s : State) :
    (closeFrame s).link.st = .idle ∧ (closeFrame s).link.n = 0 ∧ (closeFrame s).link.ovf = false ∧
      (closeFrame s).link.buf = s.link.buf := by
  rw [closeFrame_eq]
  split <;> exact ⟨rfl, rfl, rfl, rfl⟩

theorem closeFrame_out (s : State) :
    (closeFrame s).out =
      { s.out with delivered := (closeFrame s).out.delivered, labels := (closeFrame s).out.labels } := by
  rw [closeFrame_eq]
  split <;> rfl

/-- A frame that overflowed is discarded at its close, or its first twelve bytes are delivered (D4). -/
theorem closeFrame_of_overflow {s : State} (hesc : s.link.esc = false) (hn : s.link.n = 12)
    (hovf : s.link.ovf = true) :
    (s.cfg.longFrameEmits = false →
      (closeFrame s).out.delivered = s.out.delivered ∧ (closeFrame s).link.reg = s.link.reg) ∧
    (s.cfg.longFrameEmits = true → ListenersComplete s s.link.reg.length →
      (closeFrame s).out.delivered = s.out.delivered ++ deliveriesOf s.link.reg s.link.buf ∧
        (closeFrame s).link.reg = afterDispatch s.cfg s.link.reg) := by
  refine ⟨fun hdrop => ?_, fun hemit hlisteners => ?_⟩
  · rw [closeFrame_of_incomplete hesc (by simp [hovf, hdrop])]
    exact ⟨rfl, rfl⟩
  · rw [closeFrame_of_complete hesc ⟨hn, .inr hemit⟩ hlisteners]
    exact ⟨rfl, rfl⟩

/-- Settles O59: the first twelve bytes are collected and the others drop; the close is `closeFrame` of that, and every
step keeps the count. -/
theorem overlongFrameIsRejectedSafely : Obligations.OverlongFrameIsRejectedSafely := by
  intro s ds rest h hidle hle hmany hrx
  obtain ⟨u, hread, hquiet, hlink, -⟩ := reads_open_body h hidle ds hrx
  have hcoll : HasCollected ds s.link u.link := hlink ▸ hasCollected_collect ds s.link
  have hrx' : u.inp.rx = u.cfg.delim :: rest := hread.cfg ▸ hread.rest hrx
  have hclose := afterByte_close hcoll.st hcoll.esc
  have hstep : step u = .next (closeFrame (accept .rx u)) := hclose ▸ step_of_onlyRx hread.onlyRx hrx'
  have hsteps : stepN ((escapeBytes s.cfg ds).length + 2) s = .next (closeFrame (accept .rx u)) :=
    (stepN_add (k := 1) hread.steps).trans (stepN_succ_iff.mpr ⟨_, hstep, rfl⟩)
  have hwait : (closeFrame (accept .rx u)).inp.rx = rest := hclose ▸ afterByte_rx hread.onlyRx hrx'
  have hcfg : (closeFrame (accept .rx u)).cfg = s.cfg := (effect_cfg .rxbInframeDelim _).trans hread.cfg
  obtain ⟨hst, hn, hovf, hbuf⟩ := closeFrame_link (accept .rx u)
  obtain ⟨hdrops, hemits⟩ := closeFrame_of_overflow (s := accept .rx u) hcoll.esc
    (by rw [accept_link, hcoll.n]; omega) (by rw [accept_link, hcoll.ovf]; simpa using hmany)
  have hout := closeFrame_out (accept .rx u)
  rw [accept_link] at hbuf hdrops hemits
  rw [accept_out] at hdrops hemits hout
  rw [accept_cfg, hread.cfg, hquiet.delivered, hcoll.reg] at hdrops hemits
  refine ⟨fun k hk => ?_, _, hsteps, hst, hn, hovf, by rw [hbuf, hcoll.buf hmany.le], hwait, hdrops,
    fun hemit hlisteners => ?_, hcfg, ?_⟩
  · obtain ⟨v, hv⟩ := stepN_le hk hsteps
    exact ⟨v, hv, stepN_n_le hle hv⟩
  · rw [hbuf]
    refine hemits hemit fun k hk => hlisteners k ?_
    exact hquiet.stall ▸ hk
  · rw [hquiet.out] at hout
    exact hout

end Sys2Proof.Machine
end
